-- ==== Sys2Proof/Word.lean ====
section
/-! DEFINITION. The byte, the 16-byte arrays and their plainest arithmetic (spec 00_scope.md R7, R9, R10). -/

namespace Sys2Proof

/-- A stream element: one byte of 8 bits (R7).  `a +8 b` of R10 is `a + b` on this type. -/
abbrev Byte := BitVec 8

/-- A 16-entry byte array, entry `i` being byte `i`: `rx_data`, `fo_data`, `tx_data` (10_state.md R39). -/
abbrev Bytes16 := Vector Byte 16

/-- `sum(s)` of R10: the unbounded unsigned sum of the elements. -/
def byteSum (s : List Byte) : Nat := (s.map BitVec.toNat).sum

@[simp] theorem byteSum_nil : byteSum [] = 0 := rfl

@[simp] theorem byteSum_cons (b : Byte) (s : List Byte) : byteSum (b :: s) = b.toNat + byteSum s := by
  simp [byteSum]

@[simp] theorem byteSum_append (s t : List Byte) : byteSum (s ++ t) = byteSum s + byteSum t := by
  simp [byteSum]

end Sys2Proof
end

