-- ==== Sys2Proof/Config.lean ====
section
/-! DEFINITION. The protocol constants, each named in exactly one place (spec 00_scope.md R6, 92_eei_decisions.md D24;
UNVERIFIED against the source's code, log 16), and the free values (log 5). -/

namespace Sys2Proof.Config

/-- The start marker (R6). -/
def STX : Byte := 0x02

/-- The end marker (R6). -/
def ETX : Byte := 0x03

/-- The most DATA bytes a frame has (R6). -/
def MAX_DATA : Nat := 16

/-- The command of the ping convenience (R6, R84). -/
def CMD_PING : Byte := 0x00

/-- The command of the key-event notification (R6, R84).  The block never compares a byte with it. -/
def CMD_KEY_EVENT : Byte := 0xFE

/-- FREE VALUE.  What `tx_out_byte` shows in the cycle before edge `n` while `tx_busy = 0`: any value
(42_tx_framer.md R154, 93_implementation_defined.md I5; log 5). -/
opaque freeOutByte : Nat → Byte

/-- FREE VALUE.  What `FrameByte` gives, in the cycle before edge `n`, at an offset past `4 + tx_len`, which R154 does
not give and no reachable state forms (log 5). -/
opaque freeFrameByte : Nat → Byte

end Sys2Proof.Config
end

