-- ==== Sys2Proof/Syntax.lean ====
section
/-! DEFINITION. The operations: one constructor for each row of spec/opcode_table.json (30_encoding.md R91).  The
operand `b` of an RX operation is `rx_byte` at the edge (41_rx_parser.md); the two rows that fix the byte
(`S0_STX`, `S4_ETX`) have none. -/

namespace Sys2Proof

inductive Instr where
  /-- RX_IDLE (R121): no byte. -/
  | rxIdle
  /-- S0_STX (R123): STX in stage 0. -/
  | s0Stx
  /-- S0_SKIP (R122): a byte other than STX in stage 0. -/
  | s0Skip (b : Byte)
  /-- S1_CMD (R124): the command byte. -/
  | s1Cmd (b : Byte)
  /-- S2_LEN (R125): the raw length byte. -/
  | s2Len (b : Byte)
  /-- S3_DATA (R126): one data byte. -/
  | s3Data (b : Byte)
  /-- S4_ETX (R127): the expected ETX. -/
  | s4Etx
  /-- S4_ABORT (R128): a byte other than ETX where ETX belongs. -/
  | s4Abort (b : Byte)
  /-- S5_ACCEPT (R129): the CHK byte matches `rx_sum`. -/
  | s5Accept (b : Byte)
  /-- S5_REJECT (R130): the CHK byte differs from `rx_sum`. -/
  | s5Reject (b : Byte)
  /-- TX_IDLE (R153). -/
  | txIdle
  /-- TX_ACCEPT (R151), with `tx_req_cmd`, `tx_req_len` and the 16 bytes of `tx_req_data` at the edge. -/
  | txAccept (cmd len : Byte) (data : Bytes16)
  /-- TX_STALL (R156). -/
  | txStall
  /-- TX_BYTE (R155): a byte that is not the frame's last is taken. -/
  | txByte
  /-- TX_LAST (R155): the CHK byte is taken. -/
  | txLast
  /-- RESET (R200). -/
  | reset
  /-- CHECKSUM (R110) of a byte sequence of any length. -/
  | checksum (s : List Byte)
  /-- VALIDATE (R113) of a CHK byte against `rx_sum`. -/
  | validate (b : Byte)
  /-- TxBuild (R150) of a command byte and a payload of any length. -/
  | txBuild (cmd : Byte) (payload : List Byte)
  /-- PING (R158, R95): the request with command 0x00 and no data. -/
  | ping
  /-- CMD_PING (R84): frame byte 1 is 0x00. -/
  | cmdPing
  /-- CMD_KEY_EVENT (R84): frame byte 1 is 0xFE. -/
  | cmdKeyEvent
  /-- CMD_OTHER (R83): frame byte 1 is any other value. -/
  | cmdOther (b : Byte)
  deriving DecidableEq, Repr

end Sys2Proof
end

