-- ==== Sys2Proof/WellFormed.lean ====
section
/-! DEFINITION. The operand values a row admits (30_encoding.md R91, R92): the any-byte rows of stages 0 and 4 lose the
byte of the exact-byte row, and CMD_OTHER is every command value but the two that have rows of their own (R83, R84). -/

namespace Sys2Proof

open Config

/-- The operands of `i` are values its row of the operation map can be selected with. -/
def Instr.wellFormed : Instr → Bool
  | .rxIdle => true
  | .s0Stx => true
  | .s0Skip b => b != STX
  | .s1Cmd _ => true
  | .s2Len _ => true
  | .s3Data _ => true
  | .s4Etx => true
  | .s4Abort b => b != ETX
  | .s5Accept _ => true
  | .s5Reject _ => true
  | .txIdle => true
  | .txAccept _ _ _ => true
  | .txStall => true
  | .txByte => true
  | .txLast => true
  | .reset => true
  | .checksum _ => true
  | .validate _ => true
  | .txBuild _ _ => true
  | .ping => true
  | .cmdPing => true
  | .cmdKeyEvent => true
  | .cmdOther b => b != CMD_PING && b != CMD_KEY_EVENT

end Sys2Proof
end

