-- ==== Sys2Proof/Decode.lean ====
section
/-! DEFINITION. Selecting an operation (30_encoding.md R91, R92, R93): by the RX key, by the TX key, and from the bytes of
a selection record; and the encoder of such records.

The block fetches no instruction (20_memory.md R77): at an edge the two keys below select its operations.  The
SELECTION RECORD is the model's own container for one row's selection as bytes (DESIGN CHOICE, log 15): a format byte
for the six formats of opcode_table.json, then the key of that format as the table lays it out, least significant byte
first, then the values its extra condition and its operands read. -/

namespace Sys2Proof

open Config

/-! ### The RX key -/

/-- `K = {rx_stage[2:0], rx_byte[7:0]}` (R91). -/
def rxKey (stage : BitVec 3) (b : Byte) : BitVec 11 := stage ++ b

/-- `rx_stage`'s field of the key. -/
def keyStage (k : BitVec 11) : BitVec 3 := k.extractLsb' 8 3

/-- `rx_byte`'s field of the key. -/
def keyByte (k : BitVec 11) : Byte := k.extractLsb' 0 8

/-- VALIDATE's comparison (40_checksum.md R113): exact 8-bit equality. -/
def chkValid (b sum : Byte) : Bool := b == sum

/-- The RX operation `rx_valid`, the key and `rx_sum` select (R91, R92; the dispatch of 41_rx_parser.md R120).  No row
matches a stage code 6 or 7 (R93). -/
def decodeRx (valid : Bool) (k : BitVec 11) (sum : Byte) : Option Instr :=
  if valid then
    let b := keyByte k
    match (keyStage k).toNat with
    | 0 => some (if b = STX then .s0Stx else .s0Skip b)
    | 1 => some (.s1Cmd b)
    | 2 => some (.s2Len b)
    | 3 => some (.s3Data b)
    | 4 => some (if b = ETX then .s4Etx else .s4Abort b)
    | 5 => some (if chkValid b sum then .s5Accept b else .s5Reject b)
    | _ => none
  else some .rxIdle

/-- One row of R91's RX table with `rx_valid = 1`: key match and mask, extra condition on `rx_byte` and `rx_sum`,
priority. -/
structure RxRow where
  pattern : BitVec 11
  mask : BitVec 11
  condition : Byte → Byte → Bool
  priority : Nat
  op : Byte → Instr

/-- R91's RX table, row by row.  The match values 0x002 and 0x403 are written with the named constants. -/
def rxRows : List RxRow :=
  [ ⟨rxKey 0 STX, 0x7FF, fun _ _ => true, 1, fun _ => .s0Stx⟩,
    ⟨0x000, 0x700, fun _ _ => true, 0, .s0Skip⟩,
    ⟨0x100, 0x700, fun _ _ => true, 0, .s1Cmd⟩,
    ⟨0x200, 0x700, fun _ _ => true, 0, .s2Len⟩,
    ⟨0x300, 0x700, fun _ _ => true, 0, .s3Data⟩,
    ⟨rxKey 4 ETX, 0x7FF, fun _ _ => true, 1, fun _ => .s4Etx⟩,
    ⟨0x400, 0x700, fun _ _ => true, 0, .s4Abort⟩,
    ⟨0x500, 0x700, fun b sum => b == sum, 0, .s5Accept⟩,
    ⟨0x500, 0x700, fun b sum => b != sum, 0, .s5Reject⟩ ]

/-- "A key selects the row it matches under the mask whose extra condition holds" (R92). -/
def RxRow.selects (r : RxRow) (k : BitVec 11) (sum : Byte) : Bool :=
  k &&& r.mask == r.pattern && r.condition (keyByte k) sum

/-! ### The TX key -/

/-- `T = {tx_busy, tx_req_valid, tx_out_ready}` (R91). -/
def txKey (busy reqValid outReady : Bool) : BitVec 3 :=
  BitVec.ofBool busy ++ BitVec.ofBool reqValid ++ BitVec.ofBool outReady

/-- The TX operation the key selects, with `tx_pos`, `tx_len` and the request ports at the edge (R91, R92).  Past
`4 + tx_len`, which no reachable state forms, the `else` of 42_tx_framer.md R155 applies (DEDUCED, log 7). -/
def decodeTx (t : BitVec 3) (pos len : BitVec 5) (cmd reqLen : Byte) (data : Bytes16) : Instr :=
  if t &&& 0b110#3 = 0b000#3 then .txIdle
  else if t &&& 0b110#3 = 0b010#3 then .txAccept cmd reqLen data
  else if t &&& 0b101#3 = 0b100#3 then .txStall
  else if pos.toNat < 4 + len.toNat then .txByte
  else .txLast

/-- One row of R91's TX table: key match and mask, and the extra condition on `tx_pos` and `tx_len`. -/
structure TxRow where
  pattern : BitVec 3
  mask : BitVec 3
  condition : Nat → Nat → Bool
  op : Byte → Byte → Bytes16 → Instr

/-- R91's TX table, row by row. -/
def txRows : List TxRow :=
  [ ⟨0b000, 0b110, fun _ _ => true, fun _ _ _ => .txIdle⟩,
    ⟨0b010, 0b110, fun _ _ => true, .txAccept⟩,
    ⟨0b100, 0b101, fun _ _ => true, fun _ _ _ => .txStall⟩,
    ⟨0b101, 0b101, fun pos len => decide (pos < 4 + len), fun _ _ _ => .txByte⟩,
    ⟨0b101, 0b101, fun pos len => decide (pos = 4 + len), fun _ _ _ => .txLast⟩ ]

/-- "A key selects the row it matches under the mask whose extra condition holds" (R92). -/
def TxRow.selects (r : TxRow) (t : BitVec 3) (pos len : BitVec 5) : Bool :=
  t &&& r.mask == r.pattern && r.condition pos.toNat len.toNat

/-! ### Selection records -/

/-- Why bytes are no selection record. -/
inductive DecodeReject where
  /-- No byte at all. -/
  | noBytes
  /-- The first byte is none of the six formats. -/
  | unknownFormat (f : Byte)
  /-- The bytes after the format byte are too few or too many. -/
  | wrongLength
  /-- A bit outside every field is 1. -/
  | strayBits
  /-- RX key 0x600..0x7FF: stage code 6 or 7 (R93). -/
  | stageCode6Or7
  /-- A reset record whose `rst` bit is 0 selects nothing. -/
  | rstIsZero
  /-- No function of that number. -/
  | unknownFunction (n : Byte)
  /-- A pseudo record whose request is not the ping's. -/
  | notPing
  deriving DecidableEq, Repr

/-- The first 16 elements as an array, 0x00 where there is none (R94: "missing data bytes are 0x00"). -/
def bytes16OfList (l : List Byte) : Bytes16 := Vector.ofFn fun i => l.getD i.val 0

/-- Format rx_step: K in bits 10..0, NOT `rx_valid` in bit 11, then `rx_sum`. -/
def decodeRxRecord : List Byte → Except DecodeReject Instr
  | [lo, hi, sum] =>
    if 16 ≤ hi.toNat then .error .strayBits
    else
      match decodeRx (!hi.getLsbD 3) (hi.extractLsb' 0 3 ++ lo) sum with
      | some i => .ok i
      | none => .error .stageCode6Or7
  | _ => .error .wrongLength

/-- Format tx_ctl: T, `tx_pos`, `tx_len`, then the request ports. -/
def decodeTxRecord : List Byte → Except DecodeReject Instr
  | t :: pos :: len :: cmd :: reqLen :: data =>
    if data.length ≠ 16 then .error .wrongLength
    else if 8 ≤ t.toNat ∨ 32 ≤ pos.toNat ∨ 32 ≤ len.toNat then .error .strayBits
    else .ok (decodeTx (t.extractLsb' 0 3) (pos.extractLsb' 0 5) (len.extractLsb' 0 5) cmd reqLen (bytes16OfList data))
  | _ => .error .wrongLength

/-- Format reset: `rst` in bit 0. -/
def decodeResetRecord : List Byte → Except DecodeReject Instr
  | [r] => if r = 0 then .error .rstIsZero else if r = 1 then .ok .reset else .error .strayBits
  | _ => .error .wrongLength

/-- Format function: no key selects a function (R91), so the record numbers the three. -/
def decodeFunctionRecord : List Byte → Except DecodeReject Instr
  | [] => .error .wrongLength
  | n :: args =>
    if n = 0 then .ok (.checksum args)
    else if n = 1 then
      match args with
      | [b] => .ok (.validate b)
      | _ => .error .wrongLength
    else if n = 2 then
      match args with
      | cmd :: payload => .ok (.txBuild cmd payload)
      | [] => .error .wrongLength
    else .error (.unknownFunction n)

/-- Format pseudo: `tx_req_cmd = 0x00, tx_req_len = 0` (R158). -/
def decodePseudoRecord : List Byte → Except DecodeReject Instr
  | [cmd, len] => if cmd = CMD_PING ∧ len = 0 then .ok .ping else .error .notPing
  | _ => .error .wrongLength

/-- Which frame_cmd row a value of frame byte 1 belongs to (R83, R84). -/
def decodeFrameCmd (b : Byte) : Instr :=
  if b = CMD_PING then .cmdPing else if b = CMD_KEY_EVENT then .cmdKeyEvent else .cmdOther b

/-- Format frame_cmd: frame byte 1. -/
def decodeFrameCmdRecord : List Byte → Except DecodeReject Instr
  | [b] => .ok (decodeFrameCmd b)
  | _ => .error .wrongLength

/-- The decoder: any bytes give an operation or a rejection by name. -/
def decode : List Byte → Except DecodeReject Instr
  | [] => .error .noBytes
  | f :: body =>
    match f.toNat with
    | 0 => decodeRxRecord body
    | 1 => decodeTxRecord body
    | 2 => decodeResetRecord body
    | 3 => decodeFunctionRecord body
    | 4 => decodePseudoRecord body
    | 5 => decodeFrameCmdRecord body
    | _ => .error (.unknownFormat f)

/-! ### The encoder -/

/-- The rx_step record of a presented byte. -/
def encodeRx (stage : BitVec 3) (b sum : Byte) : List Byte := [0, b, stage.zeroExtend 8, sum]

/-- The tx_ctl record of a key and `tx_pos`, with `tx_len = 0` and no request. -/
def encodeTx (t : BitVec 3) (pos : Byte) : List Byte :=
  [1, t.zeroExtend 8, pos, 0, 0, 0] ++ List.replicate 16 0

/-- A selection record of `i`.  Where the operation leaves a value of the selection free (the key of RX_IDLE, `rx_sum`
outside stage 5, the don't-care bits of T), it writes zero; for S5_REJECT it writes an `rx_sum` that differs. -/
def encode : Instr → List Byte
  | .rxIdle => [0, 0, 0b1000, 0]
  | .s0Stx => encodeRx 0 STX 0
  | .s0Skip b => encodeRx 0 b 0
  | .s1Cmd b => encodeRx 1 b 0
  | .s2Len b => encodeRx 2 b 0
  | .s3Data b => encodeRx 3 b 0
  | .s4Etx => encodeRx 4 ETX 0
  | .s4Abort b => encodeRx 4 b 0
  | .s5Accept b => encodeRx 5 b b
  | .s5Reject b => encodeRx 5 b (b + 1)
  | .txIdle => encodeTx 0b000 0
  | .txAccept cmd len data => [1, 0b010, 0, 0, cmd, len] ++ data.toList
  | .txStall => encodeTx 0b100 0
  | .txByte => encodeTx 0b101 0
  | .txLast => encodeTx 0b101 4
  | .reset => [2, 1]
  | .checksum s => [3, 0] ++ s
  | .validate b => [3, 1, b]
  | .txBuild cmd p => [3, 2, cmd] ++ p
  | .ping => [4, CMD_PING, 0]
  | .cmdPing => [5, CMD_PING]
  | .cmdKeyEvent => [5, CMD_KEY_EVENT]
  | .cmdOther b => [5, b]

/-! ### Table words -/

/-- The selection record of a word of opcode_table.json of `nbits` bits, every value above those bits zero.  The table
does not number its formats, so a 16-bit word is an RX key, and an 8-bit word is read as the block's inputs first: 1 is
`rst`, a value below 8 is a TX key, any other is frame byte 1 (DESIGN CHOICE, log 15). -/
def tableRecord (nbits w : Nat) : Option (List Byte) :=
  if nbits = 16 ∧ w < 65536 then some [0, BitVec.ofNat 8 w, BitVec.ofNat 8 (w / 256), 0]
  else if nbits = 8 ∧ w < 256 then
    if w = 1 then some [2, 1]
    else if w < 8 then some ([1, BitVec.ofNat 8 w] ++ List.replicate 20 0)
    else some [5, BitVec.ofNat 8 w]
  else none

/-- The operation the decoder reads from a word of opcode_table.json. -/
def decodeTableWord (nbits w : Nat) : Option Instr :=
  match tableRecord nbits w with
  | none => none
  | some bytes =>
    match decode bytes with
    | .ok i => some i
    | .error _ => none

end Sys2Proof
end

