-- ==== Sys2Proof/Machine/State.lean ====
section
/-! DEFINITION. The state of the block (10_state.md), the ports the environment drives (30_encoding.md R89, R94), and the
state after reset (10_state.md R41). -/

namespace Sys2Proof.Machine

/-- `rx_stage` (R26): the six stages, each named by what it waits for.  Codes 6 and 7 have no representation. -/
inductive Stage where
  | stx | cmd | len | data | etx | chk
  deriving DecidableEq, Repr

/-- The RX parser's registers (R24). -/
structure RxRegs where
  stage : Stage
  cmd : Byte
  len : BitVec 5
  cnt : BitVec 5
  data : Bytes16
  sum : Byte
  deriving DecidableEq, Repr

/-- The frame output registers (R33). -/
structure FoRegs where
  valid : Bool
  cmd : Byte
  len : BitVec 5
  data : Bytes16
  deriving DecidableEq, Repr

/-- The TX framer's registers (R35). -/
structure TxRegs where
  busy : Bool
  pos : BitVec 5
  cmd : Byte
  len : BitVec 5
  data : Bytes16
  chk : Byte
  done : Bool
  deriving DecidableEq, Repr

/-- The values of the input ports in one cycle (R89).  The clock is not a field: an edge is what samples them. -/
structure PortIn where
  rst : Bool
  rxValid : Bool
  rxByte : Byte
  reqValid : Bool
  reqCmd : Byte
  reqLen : Byte
  reqData : BitVec 128
  outReady : Bool
  deriving DecidableEq, Repr

/-- The request ports and the sink's ready "as the last directive left them" (R94). -/
structure Env where
  reqValid : Bool
  reqCmd : Byte
  reqLen : Byte
  reqData : BitVec 128
  outReady : Bool
  deriving DecidableEq, Repr

/-- One line of the stimulus notation (R94).  A line `cycle p` is the model's own: one cycle with every input given
(DESIGN CHOICE, log 9). -/
inductive Line where
  /-- `RST`. -/
  | rst
  /-- `RX b0 b1 ...`: the bytes still to come. -/
  | rx (bytes : List Byte)
  /-- `IDLE n`: the cycles still to come. -/
  | idle (n : Nat)
  /-- `TXREQ cmd=C len=N data=[...]`. -/
  | txReq (cmd len : Byte) (data : List Byte)
  /-- `PING`. -/
  | ping
  /-- `WITHDRAW`. -/
  | withdraw
  /-- `SINK hold`. -/
  | sinkHold
  /-- `SINK go`. -/
  | sinkGo
  /-- The model's own: one cycle with every input given. -/
  | cycle (p : PortIn)
  deriving DecidableEq, Repr

/-- The value of a function row of the operation map. -/
inductive Answer where
  /-- CHECKSUM's byte (R110). -/
  | byte (b : Byte)
  /-- VALIDATE's verdict (R113). -/
  | valid (v : Bool)
  /-- TxBuild's frame (R150). -/
  | frame (bytes : List Byte)
  deriving DecidableEq, Repr

structure State where
  /-- The RX parser's registers (R24). -/
  rx : RxRegs
  /-- The frame output registers (R33). -/
  fo : FoRegs
  /-- The TX framer's registers (R35). -/
  tx : TxRegs
  /-- The request and sink ports between cycles (R94). -/
  env : Env
  /-- The stimulus lines still to come (R94; log 1). -/
  program : List Line
  /-- The MODEL's own: the number of clock edges so far, the index of the next edge (R213) and of the free output
  byte (log 4, log 5). -/
  edge : Nat
  /-- The MODEL's own: the value of the function row last applied (log 10). -/
  answer : Option Answer
  deriving DecidableEq, Repr

/-- No fault exists: "A model's step for this block has no fault outcome for any reachable state" (60_exceptions.md
R180).  Nothing raises one. -/
inductive Fault where
  deriving DecidableEq, Repr

/-- Why an operation has no meaning. -/
inductive Refusal where
  /-- An operation that has no meaning yet: raised by its arm of `exec`.  Safe.  No arm raises it now. -/
  | notModelled (mnemonic : String)
  /-- An RX key with stage code 6 or 7 (30_encoding.md R93): raised by `runEdge` if the key of its state matches no
  row.  Safe; `Stage` has no such code, so no state raises it. -/
  | stageCode6Or7
  deriving DecidableEq, Repr

/-- R41. -/
def RxRegs.reset : RxRegs :=
  { stage := .stx, cmd := 0, len := 0, cnt := 0, data := Vector.replicate 16 0, sum := 0 }

/-- R41. -/
def FoRegs.reset : FoRegs :=
  { valid := false, cmd := 0, len := 0, data := Vector.replicate 16 0 }

/-- R41. -/
def TxRegs.reset : TxRegs :=
  { busy := false, pos := 0, cmd := 0, len := 0, data := Vector.replicate 16 0, chk := 0, done := false }

/-- R94: "initially `tx_req_valid = 0`, `tx_out_ready = 1`".  The request fields are a DESIGN CHOICE (log 8). -/
def Env.reset : Env :=
  { reqValid := false, reqCmd := 0, reqLen := 0, reqData := 0, outReady := true }

/-- The machine right after reset (R41, R94), no stimulus line placed. -/
def State.reset : State :=
  { rx := RxRegs.reset, fo := FoRegs.reset, tx := TxRegs.reset, env := Env.reset, program := [], edge := 0,
    answer := none }

end Sys2Proof.Machine
end

