-- ==== Sys2Proof/Machine/Flags.lean ====
section
/-! DEFINITION. The 1-bit status state `fo_valid`, `tx_busy`, `tx_done` and the outputs that derive from `tx_busy`
(10_state.md R37).  The block has no condition codes or arithmetic flags. -/

namespace Sys2Proof.Machine

/-- `fo_valid <- 0`, the held frame kept: every edge without an emission (R33). -/
def foQuiet (fo : FoRegs) : FoRegs := { fo with valid := false }

/-- `tx_done <- 0`, the rest kept (42_tx_framer.md R153, R156). -/
def txQuiet (t : TxRegs) : TxRegs := { t with done := false }

/-- `tx_busy <- 1; tx_done <- 0` (42_tx_framer.md R151): the exclusion is acquired. -/
def txAcquire (t : TxRegs) : TxRegs := { t with busy := true, done := false }

/-- `tx_busy <- 0; tx_done <- 1` (42_tx_framer.md R155): the exclusion is released and success reported. -/
def txRelease (t : TxRegs) : TxRegs := { t with busy := false, done := true }

/-- `tx_req_ready = NOT tx_busy` (42_tx_framer.md R152). -/
def txReqReady (t : TxRegs) : Bool := !t.busy

/-- `tx_out_valid = tx_busy` (42_tx_framer.md R154). -/
def txOutValid (t : TxRegs) : Bool := t.busy

end Sys2Proof.Machine
end

