-- ==== Sys2Proof/Machine/Operands.lean ====
section
/-! DEFINITION. Operand assembly (30_encoding.md R87, R88, R90; 10_state.md R26): length clamps, the packing of a 16-byte
vector port, the stage codes, the payload of a request. -/

namespace Sys2Proof.Machine

open Config

/-- The binary code of a stage (R26). -/
def stageCode : Stage → BitVec 3
  | .stx => 0
  | .cmd => 1
  | .len => 2
  | .data => 3
  | .etx => 4
  | .chk => 5

/-- The stage of a code; 6 and 7 are none (R26, R93). -/
def stageOfCode (c : BitVec 3) : Option Stage :=
  match c.toNat with
  | 0 => some .stx
  | 1 => some .cmd
  | 2 => some .len
  | 3 => some .data
  | 4 => some .etx
  | 5 => some .chk
  | _ => none

/-- `min(b, 16)` of a raw length byte, unsigned (R87, R88, R160). -/
def clampLen (b : Byte) : BitVec 5 := BitVec.ofNat 5 (min b.toNat MAX_DATA)

/-- A 5-bit length as the 8-bit LEN byte (42_tx_framer.md R154). -/
def lenByte (l : BitVec 5) : Byte := l.zeroExtend 8

/-- The first `l` bytes of an array. -/
def takeBytes (l : BitVec 5) (d : Bytes16) : List Byte := d.toList.take l.toNat

/-- The bytes from the low end up, each above the one before. -/
def packList : List Byte → BitVec 128
  | [] => 0
  | b :: rest => (packList rest <<< 8) ||| b.zeroExtend 128

/-- A 16-byte vector port packs byte `i` at bits `[8i+7:8i]` (R90). -/
def packBytes (d : Bytes16) : BitVec 128 := packList d.toList

/-- Byte `i` of a vector port is its bits `[8i+7:8i]` (R90). -/
def unpackBytes (v : BitVec 128) : Bytes16 := Vector.ofFn fun i => v.extractLsb' (8 * i.val) 8

/-- The request data port for a list of data bytes: its first 16, missing ones 0x00 (R94; log 11). -/
def portData (l : List Byte) : BitVec 128 := packBytes (bytes16OfList l)

end Sys2Proof.Machine
end

