-- ==== Sys2Proof/Machine/Ops.lean ====
section
/-! DEFINITION. The shared operations: the checksum unit, frame construction, and the register writes the rules of
41_rx_parser.md and 42_tx_framer.md are made of.  The block takes no exception and returns from none (60_exceptions.md
R180, R185); the nearest thing, the silent return to stage 0, is `rxDrop`. -/

namespace Sys2Proof.Machine

open Config

/-! ### The checksum unit and frame construction -/

/-- `CHECKSUM(s) = sum(s) mod 256` (40_checksum.md R110). -/
def checksum (s : List Byte) : Byte := BitVec.ofNat 8 (byteSum s)

/-- The checksum range of a frame, STX through ETX (30_encoding.md R80, R81). -/
def frameBody (cmd : Byte) (lenByte : Byte) (d : List Byte) : List Byte := [STX, cmd, lenByte] ++ d ++ [ETX]

/-- `TxBuild(cmd, p)` (42_tx_framer.md R150). -/
def txBuild (cmd : Byte) (p : List Byte) : List Byte :=
  let d := p.take MAX_DATA
  let f := frameBody cmd (BitVec.ofNat 8 d.length) d
  f ++ [checksum f]

/-! ### RX parser registers -/

/-- The STX rule's writes (41_rx_parser.md R123). -/
def rxStart (r : RxRegs) : RxRegs := { r with sum := STX, stage := .cmd }

/-- The command rule's writes (R124). -/
def rxTakeCmd (b : Byte) (r : RxRegs) : RxRegs := { r with cmd := b, sum := r.sum + b, stage := .len }

/-- The length rule's writes (R125): the clamped length is kept, the raw byte is summed. -/
def rxTakeLen (b : Byte) (r : RxRegs) : RxRegs :=
  { r with len := clampLen b, cnt := 0, sum := r.sum + b, stage := if clampLen b = 0 then .etx else .data }

/-- The data rule's writes (R126).  An index past the buffer, which no reachable state forms, writes no entry
(DESIGN CHOICE, log 6). -/
def rxTakeData (b : Byte) (r : RxRegs) : RxRegs :=
  { r with
    data := r.data.setIfInBounds r.cnt.toNat b
    cnt := r.cnt + 1
    sum := r.sum + b
    stage := if r.cnt + 1 = r.len then .etx else .data }

/-- The accepting rule of stage 4 (R127). -/
def rxTakeEtx (r : RxRegs) : RxRegs := { r with sum := r.sum + ETX, stage := .chk }

/-- The return to stage 0, everything else kept: abort, reject, and the parser's side of an emission (R128, R129,
R130). -/
def rxDrop (r : RxRegs) : RxRegs := { r with stage := .stx }

/-! ### Frame output registers -/

/-- `emit(rx_cmd, [rx_data[0], ..., rx_data[rx_len - 1]])` (10_state.md R33, R34): zero fill beyond the length. -/
def foEmit (r : RxRegs) : FoRegs :=
  { valid := true
    cmd := r.cmd
    len := r.len
    data := Vector.ofFn fun i => if i.val < r.len.toNat then r.data[i] else 0x00 }

/-! ### TX framer registers -/

/-- The acceptance rule's writes (42_tx_framer.md R151). -/
def txLatch (cmd reqLen : Byte) (d : Bytes16) (t : TxRegs) : TxRegs :=
  txAcquire
    { t with
      cmd := cmd
      len := clampLen reqLen
      data := d
      chk := checksum (frameBody cmd (lenByte (clampLen reqLen)) (takeBytes (clampLen reqLen) d))
      pos := 0 }

/-- The byte rule's writes (R155). -/
def txAdvance (t : TxRegs) : TxRegs := txQuiet { t with pos := t.pos + 1 }

/-- `FrameByte(p)` (R154); `free` stands where the rule gives no byte. -/
def frameByte (t : TxRegs) (p : Nat) (free : Byte) : Byte :=
  if p = 0 then STX
  else if p = 1 then t.cmd
  else if p = 2 then lenByte t.len
  else if p < 3 + t.len.toNat then t.data.toList.getD (p - 3) free
  else if p = 3 + t.len.toNat then ETX
  else if p = 4 + t.len.toNat then t.chk
  else free

/-! ### State updates -/

/-- Write the parser registers. -/
def State.setRx (s : State) (r : RxRegs) : State := { s with rx := r }

/-- Write the frame output registers. -/
def State.setFo (s : State) (fo : FoRegs) : State := { s with fo := fo }

/-- Write the TX registers. -/
def State.setTx (s : State) (t : TxRegs) : State := { s with tx := t }

/-- Set the levels the environment holds. -/
def State.setEnv (s : State) (e : Env) : State := { s with env := e }

/-- Set the stimulus lines still to come. -/
def State.setProgram (s : State) (l : List Line) : State := { s with program := l }

/-- Record a function row's value (log 10). -/
def State.setAnswer (s : State) (a : Answer) : State := { s with answer := some a }

/-- Count a clock edge. -/
def State.tick (s : State) : State := { s with edge := s.edge + 1 }

/-- An RX operation that emits nothing: the parser registers written, `fo_valid <- 0` (41_rx_parser.md R120). -/
def rxSilent (r : RxRegs) (s : State) : State := (s.setRx r).setFo (foQuiet s.fo)

/-- A request presented by a directive: "from the next cycle on, `tx_req_valid = 1` with these fields" (R94). -/
def present (cmd len : Byte) (data : BitVec 128) (s : State) : State :=
  s.setEnv { s.env with reqValid := true, reqCmd := cmd, reqLen := len, reqData := data }

end Sys2Proof.Machine
end

