-- ==== Sys2Proof/Machine/Commands.lean ====
section
/-! DEFINITION. The frame_cmd rows (30_encoding.md R83, R84): the values of frame byte 1.  "The block never interprets
CMD", so the meaning of each is the reception of that value as frame byte 1 by the command rule of stage 1, which stores
it unchanged (41_rx_parser.md R124; DEDUCED, log 14). -/

namespace Sys2Proof.Machine

open Config

/-- CMD_PING (R84): frame byte 1 is 0x00. -/
def execCmdPing (s : State) : Host.Outcome State Fault Refusal := .next (rxSilent (rxTakeCmd CMD_PING s.rx) s)

/-- CMD_KEY_EVENT (R84): frame byte 1 is 0xFE. -/
def execCmdKeyEvent (s : State) : Host.Outcome State Fault Refusal := .next (rxSilent (rxTakeCmd CMD_KEY_EVENT s.rx) s)

/-- CMD_OTHER (R83): frame byte 1 is any other value. -/
def execCmdOther (b : Byte) (s : State) : Host.Outcome State Fault Refusal := .next (rxSilent (rxTakeCmd b s.rx) s)

end Sys2Proof.Machine
end

