-- ==== Sys2Proof/Machine/Functions.lean ====
section
/-! DEFINITION. The function rows (30_encoding.md R91: "used by the rules but selected by no key").  They write no
register and no port; their value goes to the model's own field `answer` (DESIGN CHOICE, log 10). -/

namespace Sys2Proof.Machine

/-- CHECKSUM (40_checksum.md R110). -/
def execChecksum (bytes : List Byte) (s : State) : Host.Outcome State Fault Refusal :=
  .next (s.setAnswer (.byte (Machine.checksum bytes)))

/-- VALIDATE (40_checksum.md R113): `valid = (b == rx_sum)`. -/
def execValidate (b : Byte) (s : State) : Host.Outcome State Fault Refusal :=
  .next (s.setAnswer (.valid (chkValid b s.rx.sum)))

/-- TxBuild (42_tx_framer.md R150). -/
def execTxBuild (cmd : Byte) (payload : List Byte) (s : State) : Host.Outcome State Fault Refusal :=
  .next (s.setAnswer (.frame (Machine.txBuild cmd payload)))

end Sys2Proof.Machine
end

