-- ==== Sys2Proof/Machine/Reset.lean ====
section
/-! DEFINITION. RESET (70_reset_and_hazards.md R200). -/

namespace Sys2Proof.Machine

/-- Every register takes its reset value (10_state.md R41).  The environment's levels, the lines still to come and the
model's own fields are no registers of the block and keep theirs. -/
def execReset (s : State) : Host.Outcome State Fault Refusal :=
  .next (((s.setRx RxRegs.reset).setFo FoRegs.reset).setTx TxRegs.reset)

end Sys2Proof.Machine
end

