-- ==== Sys2Proof/Machine/RxParser.lean ====
section
/-! DEFINITION. The RX operations (41_rx_parser.md R121 to R130).  A meaning is the operation's effect; which operation an
edge performs is the key's choice (30_encoding.md R91), so a meaning does not test the stage again (log 13). -/

namespace Sys2Proof.Machine

/-- RX_IDLE (R121): only `fo_valid` is written. -/
def execRxIdle (s : State) : Host.Outcome State Fault Refusal := .next (rxSilent s.rx s)

/-- S0_SKIP (R122): the byte is discarded. -/
def execS0Skip (_b : Byte) (s : State) : Host.Outcome State Fault Refusal := .next (rxSilent s.rx s)

/-- S0_STX (R123): a candidate frame starts. -/
def execS0Stx (s : State) : Host.Outcome State Fault Refusal := .next (rxSilent (rxStart s.rx) s)

/-- S1_CMD (R124). -/
def execS1Cmd (b : Byte) (s : State) : Host.Outcome State Fault Refusal := .next (rxSilent (rxTakeCmd b s.rx) s)

/-- S2_LEN (R125). -/
def execS2Len (b : Byte) (s : State) : Host.Outcome State Fault Refusal := .next (rxSilent (rxTakeLen b s.rx) s)

/-- S3_DATA (R126). -/
def execS3Data (b : Byte) (s : State) : Host.Outcome State Fault Refusal := .next (rxSilent (rxTakeData b s.rx) s)

/-- S4_ETX (R127). -/
def execS4Etx (s : State) : Host.Outcome State Fault Refusal := .next (rxSilent (rxTakeEtx s.rx) s)

/-- S4_ABORT (R128): the candidate and the byte are discarded. -/
def execS4Abort (_b : Byte) (s : State) : Host.Outcome State Fault Refusal := .next (rxSilent (rxDrop s.rx) s)

/-- S5_ACCEPT (R129): the frame is emitted. -/
def execS5Accept (_b : Byte) (s : State) : Host.Outcome State Fault Refusal :=
  .next ((s.setRx (rxDrop s.rx)).setFo (foEmit s.rx))

/-- S5_REJECT (R130): the candidate and the CHK byte are discarded. -/
def execS5Reject (_b : Byte) (s : State) : Host.Outcome State Fault Refusal := .next (rxSilent (rxDrop s.rx) s)

end Sys2Proof.Machine
end

