-- ==== Sys2Proof/Machine/TxFramer.lean ====
section
/-! DEFINITION. The TX operations (42_tx_framer.md R151 to R156) and the ping (R158). -/

namespace Sys2Proof.Machine

open Config

/-- TX_IDLE (R153). -/
def execTxIdle (s : State) : Host.Outcome State Fault Refusal := .next (s.setTx (txQuiet s.tx))

/-- TX_ACCEPT (R151): the request's fields are latched and the exclusion acquired. -/
def execTxAccept (cmd len : Byte) (data : Bytes16) (s : State) : Host.Outcome State Fault Refusal :=
  .next (s.setTx (txLatch cmd len data s.tx))

/-- TX_STALL (R156): the offered byte is held. -/
def execTxStall (s : State) : Host.Outcome State Fault Refusal := .next (s.setTx (txQuiet s.tx))

/-- TX_BYTE (R155): the next byte is offered. -/
def execTxByte (s : State) : Host.Outcome State Fault Refusal := .next (s.setTx (txAdvance s.tx))

/-- TX_LAST (R155): the CHK byte was taken; `tx_pos` keeps its value. -/
def execTxLast (s : State) : Host.Outcome State Fault Refusal := .next (s.setTx (txRelease s.tx))

/-- PING (R158, R95): the request `TXREQ cmd=00 len=0 data=[]` is presented (log 12). -/
def execPing (s : State) : Host.Outcome State Fault Refusal := .next (present CMD_PING 0 (portData []) s)

end Sys2Proof.Machine
end

