-- ==== Sys2Proof/Machine/Dispatch.lean ====
section
/-! DEFINITION. One arm per row of the operation map (30_encoding.md R91). -/

namespace Sys2Proof.Machine

def exec (i : Instr) (s : State) : Host.Outcome State Fault Refusal :=
  match i with
  | .rxIdle => Sys2Proof.Machine.execRxIdle s
  | .s0Stx => Sys2Proof.Machine.execS0Stx s
  | .s0Skip b => Sys2Proof.Machine.execS0Skip b s
  | .s1Cmd b => Sys2Proof.Machine.execS1Cmd b s
  | .s2Len b => Sys2Proof.Machine.execS2Len b s
  | .s3Data b => Sys2Proof.Machine.execS3Data b s
  | .s4Etx => Sys2Proof.Machine.execS4Etx s
  | .s4Abort b => Sys2Proof.Machine.execS4Abort b s
  | .s5Accept b => Sys2Proof.Machine.execS5Accept b s
  | .s5Reject b => Sys2Proof.Machine.execS5Reject b s
  | .txIdle => Sys2Proof.Machine.execTxIdle s
  | .txAccept cmd len data => Sys2Proof.Machine.execTxAccept cmd len data s
  | .txStall => Sys2Proof.Machine.execTxStall s
  | .txByte => Sys2Proof.Machine.execTxByte s
  | .txLast => Sys2Proof.Machine.execTxLast s
  | .reset => Sys2Proof.Machine.execReset s
  | .checksum bytes => Sys2Proof.Machine.execChecksum bytes s
  | .validate b => Sys2Proof.Machine.execValidate b s
  | .txBuild cmd payload => Sys2Proof.Machine.execTxBuild cmd payload s
  | .ping => Sys2Proof.Machine.execPing s
  | .cmdPing => Sys2Proof.Machine.execCmdPing s
  | .cmdKeyEvent => Sys2Proof.Machine.execCmdKeyEvent s
  | .cmdOther b => Sys2Proof.Machine.execCmdOther b s

end Sys2Proof.Machine
end

