-- ==== Sys2Proof/Machine/Edge.lean ====
section
/-! DEFINITION. One clock edge (30_encoding.md R91), the running of a stimulus program (R94), and the placing of one
operation before the next step. -/

namespace Sys2Proof.Machine

open Config

/-! ### One edge -/

/-- The RX operation the cycle's inputs and the state select (R91). -/
def selectRx (p : PortIn) (s : State) : Option Instr :=
  decodeRx p.rxValid (rxKey (stageCode s.rx.stage) p.rxByte) s.rx.sum

/-- The TX operation the cycle's inputs and the state select (R91). -/
def selectTx (p : PortIn) (s : State) : Instr :=
  decodeTx (txKey s.tx.busy p.reqValid p.outReady) s.tx.pos s.tx.len p.reqCmd p.reqLen (unpackBytes p.reqData)

/-- The rising edge that samples `p`: RESET alone, or exactly one RX and one TX operation (R91).  Both are selected by
the registers before the edge (00_scope.md R11); the two sides share no state, so their order here is unseen
(20_memory.md R73; DEDUCED, log 3). -/
def runEdge (p : PortIn) (s : State) : Host.Outcome State Fault Refusal :=
  if p.rst then exec .reset s.tick
  else
    match selectRx p s with
    | none => .refused .stageCode6Or7
    | some rxOp =>
      match exec rxOp s.tick with
      | .next t => exec (selectTx p s) t
      | .fault f => .fault f
      | .refused r => .refused r

/-! ### The stimulus program -/

/-- A cycle in which a line sets nothing: idle RX inputs, the request and sink ports as the last directive left them
(R94). -/
def heldPorts (e : Env) : PortIn :=
  { rst := false, rxValid := false, rxByte := 0, reqValid := e.reqValid, reqCmd := e.reqCmd, reqLen := e.reqLen,
    reqData := e.reqData, outReady := e.outReady }

/-- The edge of a held request's acceptance ends its presentation: "until the edge that accepts the request" (R94). -/
def endAccepted (p : PortIn) (s : State) : State :=
  if !p.rst && p.reqValid && txReqReady s.tx then s.setEnv { s.env with reqValid := false } else s

/-- An edge of a cycle whose request ports the directives hold. -/
def heldEdge (p : PortIn) (s : State) : Host.Outcome State Fault Refusal := runEdge p (endAccepted p s)

/-- One step of the stimulus program (R94): a directive takes no cycle, a cycle line takes one edge and leaves the rest
of its cycles.  With no line left the inputs rest as they are held (DESIGN CHOICE, log 2). -/
def runNext (s : State) : Host.Outcome State Fault Refusal :=
  match s.program with
  | [] => heldEdge (heldPorts s.env) s
  | .rst :: k => heldEdge { heldPorts s.env with rst := true } (s.setProgram k)
  | .rx [] :: k => .next (s.setProgram k)
  | .rx (b :: bs) :: k => heldEdge { heldPorts s.env with rxValid := true, rxByte := b } (s.setProgram (.rx bs :: k))
  | .idle 0 :: k => .next (s.setProgram k)
  | .idle (n + 1) :: k => heldEdge (heldPorts s.env) (s.setProgram (.idle n :: k))
  | .txReq cmd len data :: k => .next (present cmd len (portData data) (s.setProgram k))
  | .ping :: k => exec .ping (s.setProgram k)
  | .withdraw :: k => .next ((s.setProgram k).setEnv { s.env with reqValid := false })
  | .sinkHold :: k => .next ((s.setProgram k).setEnv { s.env with outReady := false })
  | .sinkGo :: k => .next ((s.setProgram k).setEnv { s.env with outReady := true })
  | .cycle p :: k => runEdge p (s.setProgram k)

/-! ### Placing one operation -/

/-- A cycle that presents nothing and holds the sink, so that it changes neither side but for the pulses. -/
def quietPorts : PortIn :=
  { rst := false, rxValid := false, rxByte := 0, reqValid := false, reqCmd := 0, reqLen := 0, reqData := 0,
    outReady := false }

/-- Put the cycle `p` before the lines still to come. -/
def State.placeCycle (p : PortIn) (s : State) : State := s.setProgram (.cycle p :: s.program)

/-- The parser waiting in `st`, and a cycle that presents `b`. -/
def placeByte (st : Stage) (b : Byte) (s : State) : State :=
  (s.setRx { s.rx with stage := st }).placeCycle { quietPorts with rxValid := true, rxByte := b }

/-- The state whose very next step runs `i`: the registers `i`'s key and condition read, and the cycle that presents
its inputs.  No key selects a function row (R91), so nothing can be placed for one. -/
def placeInstr (i : Instr) (s : State) : State :=
  match i with
  | .rxIdle => s.placeCycle quietPorts
  | .s0Stx => placeByte .stx STX s
  | .s0Skip b => placeByte .stx b s
  | .s1Cmd b => placeByte .cmd b s
  | .s2Len b => placeByte .len b s
  | .s3Data b => placeByte .data b s
  | .s4Etx => placeByte .etx ETX s
  | .s4Abort b => placeByte .etx b s
  | .s5Accept b => placeByte .chk b (s.setRx { s.rx with sum := b })
  | .s5Reject b => placeByte .chk b (s.setRx { s.rx with sum := if s.rx.sum = b then b + 1 else s.rx.sum })
  | .txIdle => (s.setTx { s.tx with busy := false }).placeCycle quietPorts
  | .txAccept cmd len data =>
    (s.setTx { s.tx with busy := false }).placeCycle
      { quietPorts with reqValid := true, reqCmd := cmd, reqLen := len, reqData := packBytes data }
  | .txStall => (s.setTx { s.tx with busy := true }).placeCycle quietPorts
  | .txByte =>
    (s.setTx { s.tx with busy := true, pos := if s.tx.pos.toNat < 4 + s.tx.len.toNat then s.tx.pos else 0 }).placeCycle
      { quietPorts with outReady := true }
  | .txLast =>
    (s.setTx { s.tx with busy := true, len := if s.tx.len.toNat ≤ MAX_DATA then s.tx.len else 0,
                         pos := if s.tx.len.toNat ≤ MAX_DATA then s.tx.len + 4 else 4 }).placeCycle
      { quietPorts with outReady := true }
  | .reset => s.placeCycle { quietPorts with rst := true }
  | .checksum _ => s
  | .validate _ => s
  | .txBuild _ _ => s
  | .ping => s.setProgram (.ping :: s.program)
  | .cmdPing => placeByte .cmd CMD_PING s
  | .cmdKeyEvent => placeByte .cmd CMD_KEY_EVENT s
  | .cmdOther b => placeByte .cmd b s

/-- Place the operation of a table word; a word that is none changes nothing. -/
def placeWord (nbits w : Nat) (s : State) : State :=
  match decodeTableWord nbits w with
  | some i => placeInstr i s
  | none => s

end Sys2Proof.Machine
end

