-- ==== Sys2Proof/Machine/Step.lean ====
section
/-! DEFINITION. The step: one line of the stimulus program (30_encoding.md R94), most often one clock edge. -/

namespace Sys2Proof.Machine

/-- One step (log 1, log 2). -/
def step (s : State) : Host.Outcome State Fault Refusal := runNext s

/-- `s` with the operation of the table word placed so that the very next step runs it (log 1, log 15). -/
def State.withFetchWord (s : State) (nbits w : Nat) : State := placeWord nbits w s

end Sys2Proof.Machine
end

