-- ==== Sys2Proof/Machine/Transaction.lean ====
section
/-! DEFINITION. The transaction level (00_scope.md R12): `RxStep` as a total function (41_rx_parser.md R120), over byte
sequences.  `TxBuild` is `txBuild` of Machine/Ops.lean. -/

namespace Sys2Proof.Machine

open Config

/-- A frame event's value `(command, data)` (20_memory.md R68). -/
structure Frame where
  cmd : Byte
  data : List Byte
  deriving DecidableEq, Repr

/-- The frame the parser holds: `(rx_cmd, [rx_data[0], ..., rx_data[rx_len - 1]])` (R129). -/
def heldFrame (r : RxRegs) : Frame := ⟨r.cmd, takeBytes r.len r.data⟩

/-- `RxStep(S, b)` (R120). -/
def rxStep (r : RxRegs) (b : Byte) : RxRegs × Option Frame :=
  match r.stage with
  | .stx => (if b = STX then rxStart r else r, none)
  | .cmd => (rxTakeCmd b r, none)
  | .len => (rxTakeLen b r, none)
  | .data => (rxTakeData b r, none)
  | .etx => (if b = ETX then rxTakeEtx r else rxDrop r, none)
  | .chk => (rxDrop r, if chkValid b r.sum then some (heldFrame r) else none)

/-- The parser fed a byte sequence: its registers after, and the frames emitted in order (R133). -/
def rxFeed (r : RxRegs) : List Byte → RxRegs × List Frame
  | [] => (r, [])
  | b :: bs =>
    let one := rxStep r b
    let rest := rxFeed one.1 bs
    (rest.1, one.2.toList ++ rest.2)

end Sys2Proof.Machine
end

