-- ==== Sys2Proof/Machine/SourceCodec.lean ====
section
/-! DEFINITION. The parser as the source defines it: a growable buffer, a cursor, a start offset (10_state.md R21, R22,
R23), driven by the stage table of 41_rx_parser.md through its dispatch loop (R134).  It is no part of the hardware
(10_state.md R24, R39); the hardware parser is compared with it (R25). -/

namespace Sys2Proof.Machine

open Config

/-- The source's parser state (R21). -/
structure SrcCodec where
  stage : Stage
  buf : List Byte
  cursor : Nat
  start : Nat
  cmd : Byte
  data : List Byte
  target : Nat
  deriving DecidableEq, Repr

/-- "initialized empty at codec creation" (R22).  The source gives no value for the in-progress command byte and the
target length there (91_not_in_source.md N17): both are 0, a DESIGN CHOICE (log 21), as is the remembered offset's 0.  No
pass reads one before it has written it. -/
def SrcCodec.create : SrcCodec := { stage := .stx, buf := [], cursor := 0, start := 0, cmd := 0, data := [], target := 0 }

/-- "cursor and remembered offset reset to zero whenever the consumed prefix of the buffer is discarded" (R22), the
next stage being 0; `n` bytes are consumed before the discard.  The fields R22 does not list keep their values (DEDUCED,
log 21). -/
def SrcCodec.discard (c : SrcCodec) (n : Nat) : SrcCodec :=
  { c with stage := .stx, buf := c.buf.drop (c.cursor + n), cursor := 0, start := 0 }

/-- What one pass of the dispatch loop gives: the codec, the frame event, whether the stage progressed. -/
structure SrcPass where
  codec : SrcCodec
  frame : Option Frame
  progress : Bool
  deriving DecidableEq, Repr

/-- The bytes the cursor has not read. -/
def SrcCodec.unread (c : SrcCodec) : List Byte := c.buf.drop c.cursor

/-- "compute checksum over [frame start, byte before CHK]". -/
def SrcCodec.rangeSum (c : SrcCodec) : Byte := checksum ((c.buf.take c.cursor).drop c.start)

/-- One pass over the current stage (the stage table of 41_rx_parser.md). -/
def SrcCodec.pass (c : SrcCodec) : SrcPass :=
  match c.stage with
  | .stx =>
    match c.unread.findIdx? (· == STX) with
    | some k => ⟨{ c with cursor := c.cursor + k + 1, start := c.cursor + k, stage := .cmd }, none, true⟩
    | none => ⟨{ c with cursor := c.buf.length }, none, false⟩
  | .cmd =>
    match c.unread with
    | b :: _ => ⟨{ c with cursor := c.cursor + 1, cmd := b, stage := .len }, none, true⟩
    | [] => ⟨c, none, false⟩
  | .len =>
    match c.unread with
    | b :: _ =>
      ⟨{ c with cursor := c.cursor + 1, target := min b.toNat MAX_DATA, data := [], stage := .data }, none, true⟩
    | [] => ⟨c, none, false⟩
  | .data =>
    let got := c.unread.take (c.target - c.data.length)
    let c' := { c with cursor := c.cursor + got.length, data := c.data ++ got }
    if c'.data.length = c.target then ⟨{ c' with stage := .etx }, none, true⟩ else ⟨c', none, false⟩
  | .etx =>
    match c.unread with
    | b :: _ => if b = ETX then ⟨{ c with cursor := c.cursor + 1, stage := .chk }, none, true⟩ else ⟨c.discard 1, none, true⟩
    | [] => ⟨c, none, false⟩
  | .chk =>
    match c.unread with
    | b :: _ => ⟨c.discard 1, if b = c.rangeSum then some ⟨c.cmd, c.data⟩ else none, true⟩
    | [] => ⟨c, none, false⟩

/-- "re-enters its dispatch loop until a pass makes no stage progress" (R134), on fuel. -/
def SrcCodec.loop : Nat → SrcCodec → SrcCodec × List Frame
  | 0, c => (c, [])
  | fuel + 1, c =>
    let p := c.pass
    if p.progress then
      let rest := SrcCodec.loop fuel p.codec
      (rest.1, p.frame.toList ++ rest.2)
    else (p.codec, p.frame.toList)

/-- One transport read event: the chunk is appended and the loop runs to rest (R22, R134).  Every progressing pass
consumes a byte, but for one move out of stage 3 for each LEN byte, so the fuel suffices. -/
def SrcCodec.feed (c : SrcCodec) (chunk : List Byte) : SrcCodec × List Frame :=
  let c' := { c with buf := c.buf ++ chunk }
  SrcCodec.loop (2 * c'.unread.length + 2) c'

/-- A list of transport reads. -/
def SrcCodec.feedAll (c : SrcCodec) : List (List Byte) → SrcCodec × List Frame
  | [] => (c, [])
  | chunk :: chunks =>
    let one := c.feed chunk
    let rest := one.1.feedAll chunks
    (rest.1, one.2 ++ rest.2)

end Sys2Proof.Machine
end

