-- ==== Sys2Proof/Machine/Ports.lean ====
section
/-! DEFINITION. The output ports, combinational from the registers (30_encoding.md R89; 10_state.md R33, R37;
42_tx_framer.md R152, R154, R157). -/

namespace Sys2Proof.Machine

/-- The values of the output ports in one cycle (R89). -/
structure PortOut where
  foValid : Bool
  foCmd : Byte
  foLen : BitVec 5
  foData : BitVec 128
  reqReady : Bool
  outValid : Bool
  outByte : Byte
  txDone : Bool
  deriving DecidableEq, Repr

/-- The byte offered to the sink while `tx_busy = 1`: `FrameByte(tx_pos)` (R154). -/
def offeredByte (s : State) : Byte := frameByte s.tx s.tx.pos.toNat (Config.freeFrameByte s.edge)

/-- `tx_out_byte`: the offered byte, and any value while `tx_busy = 0` (R154; log 5). -/
def txOutByte (s : State) : Byte := if s.tx.busy then offeredByte s else Config.freeOutByte s.edge

/-- The output ports of the cycle before the next edge (R89). -/
def outputs (s : State) : PortOut :=
  { foValid := s.fo.valid
    foCmd := s.fo.cmd
    foLen := s.fo.len
    foData := packBytes s.fo.data
    reqReady := txReqReady s.tx
    outValid := txOutValid s.tx
    outByte := txOutByte s
    txDone := s.tx.done }

end Sys2Proof.Machine
end

