-- ==== Sys2Proof/Machine/Observe.lean ====
section
/-! DEFINITION. Runs and their observation (70_reset_and_hazards.md R213), and the internal reasons of a desynchronisation
(60_exceptions.md R181), as functions of a run that no step reads. -/

namespace Sys2Proof.Machine

/-- The state after the edge that samples `p`.  An edge that did not answer a next state would leave `s`; none is so
(R180). -/
def edgeNext (p : PortIn) (s : State) : State :=
  match runEdge p s with
  | .next t => t
  | .fault _ => s
  | .refused _ => s

/-- The state after the edges of a list of cycles. -/
def runCycles : List PortIn → State → State
  | [], s => s
  | p :: ps, s => runCycles ps (edgeNext p s)

/-- The frame an edge emitted, read from the outputs after it: `data = fo_data[0..fo_len)` (R213). -/
def emittedFrame (after : State) : Option Frame :=
  if after.fo.valid then some ⟨after.fo.cmd, takeBytes after.fo.len after.fo.data⟩ else none

/-- The byte the sink takes at the edge that samples `p`; none at a reset edge (R200, 42_tx_framer.md R155). -/
def takenByte (p : PortIn) (s : State) : Option Byte :=
  if !p.rst && (txOutValid s.tx && p.outReady) then some (offeredByte s) else none

/-- TX_LAST happens at the edge that samples `p`. -/
def lastAt (p : PortIn) (s : State) : Bool := !p.rst && decide (selectTx p s = .txLast)

/-- The observation of a run (R213). -/
structure Observation where
  frames : List (Nat × Frame)
  taken : List (Nat × Byte)
  lasts : List Nat
  final : State
  deriving DecidableEq, Repr

/-- The observation of the run that applies a list of cycles to `s` (R213); edges are numbered by `State.edge`. -/
def observe : List PortIn → State → Observation
  | [], s => ⟨[], [], [], s⟩
  | p :: ps, s =>
    let t := edgeNext p s
    let o := observe ps t
    { frames := (emittedFrame t).toList.map (fun f => (s.edge, f)) ++ o.frames
      taken := (takenByte p s).toList.map (fun b => (s.edge, b)) ++ o.taken
      lasts := (if lastAt p s then [s.edge] else []) ++ o.lasts
      final := o.final }

/-- The frames of a run, in order. -/
def framesOf (ps : List PortIn) (s : State) : List Frame := (observe ps s).frames.map Prod.snd

/-- The bytes the sink takes in a run, in order. -/
def takenOf (ps : List PortIn) (s : State) : List Byte := (observe ps s).taken.map Prod.snd

/-- The bytes the cycles of a run present to the parser, in arrival order (20_memory.md R70): none in a reset cycle. -/
def rxBytes (ps : List PortIn) : List Byte :=
  ps.filterMap fun p => if !p.rst && p.rxValid then some p.rxByte else none

/-- The two causes of a protocol desynchronisation (R181).  No port shows them and no register holds them. -/
inductive DesyncReason where
  /-- Raised by S4_ABORT. -/
  | badEtx
  /-- Raised by S5_REJECT. -/
  | badChk
  deriving DecidableEq, Repr

/-- The desynchronisation at the edge that samples `p` (R181). -/
def desyncAt (p : PortIn) (s : State) : Option DesyncReason :=
  if p.rst then none
  else
    match selectRx p s with
    | some (.s4Abort _) => some .badEtx
    | some (.s5Reject _) => some .badChk
    | _ => none

/-- The state before edge `n` of an endless sequence of cycles (R210). -/
def stateAt (inp : Nat → PortIn) (s : State) : Nat → State
  | 0 => s
  | n + 1 => edgeNext (inp n) (stateAt inp s n)

end Sys2Proof.Machine
end

