-- ==== Sys2Proof/Safety.lean ====
section
/-! DEFINITION. The terms claims about the block are stated in: what an operation leaves alone, the launch premises
(70_reset_and_hazards.md R214), the invariant of every run (41_rx_parser.md R136, 10_state.md R24, R33, R35), and what a
safe run is. -/

namespace Sys2Proof.Machine

open Config

/-- `i` is a row of R91's RX table. -/
def isRxRow : Instr → Bool
  | .rxIdle | .s0Stx | .s0Skip _ | .s1Cmd _ | .s2Len _ | .s3Data _ | .s4Etx | .s4Abort _ | .s5Accept _
  | .s5Reject _ => true
  | .txIdle | .txAccept _ _ _ | .txStall | .txByte | .txLast | .reset | .checksum _ | .validate _ | .txBuild _ _ | .ping
  | .cmdPing | .cmdKeyEvent | .cmdOther _ => false

/-- `i` is a row of R91's TX table. -/
def isTxRow : Instr → Bool
  | .txIdle | .txAccept _ _ _ | .txStall | .txByte | .txLast => true
  | .rxIdle | .s0Stx | .s0Skip _ | .s1Cmd _ | .s2Len _ | .s3Data _ | .s4Etx | .s4Abort _ | .s5Accept _ | .s5Reject _
  | .reset | .checksum _ | .validate _ | .txBuild _ _ | .ping | .cmdPing | .cmdKeyEvent | .cmdOther _ => false

/-- Everything but the RX parser's and the frame output registers is as before. -/
def SameOutsideRx (s t : State) : Prop :=
  t.tx = s.tx ∧ t.env = s.env ∧ t.program = s.program ∧ t.edge = s.edge ∧ t.answer = s.answer

/-- Everything but the TX registers is as before. -/
def SameOutsideTx (s t : State) : Prop :=
  t.rx = s.rx ∧ t.fo = s.fo ∧ t.env = s.env ∧ t.program = s.program ∧ t.edge = s.edge ∧ t.answer = s.answer

/-- Every register of the block is as before. -/
def SameRegisters (s t : State) : Prop := t.rx = s.rx ∧ t.fo = s.fo ∧ t.tx = s.tx

/-- Everything but the function rows' value is as before: no register, no port and no stimulus line has changed. -/
def SameButAnswer (s t : State) : Prop :=
  SameRegisters s t ∧ t.env = s.env ∧ t.program = s.program ∧ t.edge = s.edge

/-- The two cycles present the same to the RX side. -/
def SameRxInputs (p q : PortIn) : Prop := p.rst = q.rst ∧ p.rxValid = q.rxValid ∧ (p.rxValid = true → p.rxByte = q.rxByte)

/-- The two cycles present the same to the TX side. -/
def SameTxInputs (p q : PortIn) : Prop :=
  p.rst = q.rst ∧ p.reqValid = q.reqValid ∧ p.outReady = q.outReady ∧
    (p.reqValid = true → p.reqCmd = q.reqCmd ∧ p.reqLen = q.reqLen ∧ p.reqData = q.reqData)

/-- The two cycles differ at most in the request ports. -/
def SameButRequest (p q : PortIn) : Prop :=
  p.rst = q.rst ∧ p.rxValid = q.rxValid ∧ p.rxByte = q.rxByte ∧ p.outReady = q.outReady

/-- The frame outputs after an edge without an emission: `fo_valid = 0`, the last frame held (10_state.md R33). -/
def FoHeld (s t : State) : Prop :=
  t.fo.valid = false ∧ t.fo.cmd = s.fo.cmd ∧ t.fo.len = s.fo.len ∧ t.fo.data = s.fo.data

/-- `Fresh` (R214): the registers are those of the reset state. -/
def Fresh (s : State) : Prop := s.rx = RxRegs.reset ∧ s.fo = FoRegs.reset ∧ s.tx = TxRegs.reset

/-- `RxAtRest` (R214). -/
def RxAtRest (s : State) : Prop := s.rx.stage = .stx

/-- `TxIdle` (R214). -/
def TxIdle (s : State) : Prop := s.tx.busy = false

/-- `SinkFair` (R214, R210): the sink does not stall for ever. -/
def SinkFair (inp : Nat → PortIn) : Prop := ∀ n, ∃ m, n ≤ m ∧ (inp m).outReady = true

/-- No cycle of the list resets the block. -/
def NoReset (ps : List PortIn) : Prop := ∀ p ∈ ps, p.rst = false

/-- The cycles of the list in which the sink is ready. -/
def readyCount (ps : List PortIn) : Nat := ps.countP fun p => p.outReady

/-- The parser's part of the invariant (R136, but for `rx_sum`, which 40_checksum.md R112 states of the bytes
consumed). -/
structure RxInv (r : RxRegs) : Prop where
  len_le : r.len.toNat ≤ MAX_DATA
  cnt_le : r.cnt.toNat ≤ r.len.toNat
  in_data : r.stage = .data → r.cnt.toNat < r.len.toNat
  after_data : r.stage = .etx ∨ r.stage = .chk → r.cnt = r.len

/-- The frame outputs' part (R136): the length is legal and the bytes beyond it read zero. -/
structure FoInv (fo : FoRegs) : Prop where
  len_le : fo.len.toNat ≤ MAX_DATA
  zero_fill : ∀ i : Fin 16, fo.len.toNat ≤ i.val → fo.data[i] = 0x00

/-- The TX framer's part: the legal values of 10_state.md R35, and the CHK of the frame in flight is the checksum of
what is sent (40_checksum.md R114). -/
structure TxInv (t : TxRegs) : Prop where
  len_le : t.len.toNat ≤ MAX_DATA
  pos_le : t.pos.toNat ≤ 4 + t.len.toNat
  chk_eq : t.busy = true → t.chk = checksum (frameBody t.cmd (lenByte t.len) (takeBytes t.len t.data))

/-- The invariant of every run. -/
structure Inv (s : State) : Prop where
  rx : RxInv s.rx
  fo : FoInv s.fo
  tx : TxInv s.tx

/-- A safe run: `n` steps end in a next state, no fault and no refusal (60_exceptions.md R180). -/
def SafeFor (n : Nat) (s : State) : Prop :=
  ∃ t, Host.Core.run { State := State, Fault := Fault, Refusal := Refusal, step := step, reset := State.reset } n s = .next t

end Sys2Proof.Machine
end

