-- ==== Sys2Proof/Certificates/Slice0/Obligations.lean ====
section
/-! DEFINITION. What is claimed of the block.  Each docstring names the rule of spec/ the statement formalises, or, where
the spec marks the rule as derived, says so. -/

open Sys2Proof Sys2Proof.Machine Sys2Proof.Config

/-! ### Selection and encoding -/

/-- 30_encoding.md R92 (the spec marks it derived from R91): every RX key with a stage code of 0..5 selects exactly one
operation, that of the matching row of the highest priority; every TX key with a legal `tx_pos` selects exactly one. -/
def Obligations.EveryKeySelectsExactlyOneRow : Prop :=
  (∀ (k : BitVec 11) (sum : Byte), (keyStage k).toNat ≤ 5 →
    ∃ r ∈ rxRows, r.selects k sum = true ∧ decodeRx true k sum = some (r.op (keyByte k)) ∧
      ∀ q ∈ rxRows, q.selects k sum = true → q.op (keyByte k) = r.op (keyByte k) ∨ q.priority < r.priority) ∧
  ∀ (t : BitVec 3) (pos len : BitVec 5) (cmd n : Byte) (d : Bytes16), pos.toNat ≤ 4 + len.toNat →
    ∃ r ∈ txRows, r.selects t pos len = true ∧ decodeTx t pos len cmd n d = r.op cmd n d ∧
      ∀ q ∈ txRows, q.selects t pos len = true → q.op cmd n d = r.op cmd n d

/-- 30_encoding.md R93: the keys 0x600..0x7FF match no row and are refused, and no state of the machine forms one. -/
def Obligations.StageCodes6And7AreRefused : Prop :=
  (∀ (k : BitVec 11) (sum : Byte), 0x600 ≤ k.toNat →
    (∀ r ∈ rxRows, r.selects k sum = false) ∧ decodeRx true k sum = none) ∧
  ∀ (st : Stage) (b : Byte), (rxKey (stageCode st) b).toNat < 0x600

/-- Decoding the record of a well-formed operation gives the operation back (the record is the model's own container,
log 15; the keys in it are 30_encoding.md R91's). -/
def Obligations.DecodeOfEncodeIsTheOperation : Prop :=
  ∀ i : Instr, i.wellFormed = true → decode (encode i) = .ok i

/-- Records with the keys of 30_encoding.md R91 written out bit by bit decode to their operations.  The record around a
key is the model's (log 15), and so is the reading of a table word alone, where R91 has other rows too: 1 as `rst`
(T = 0b001 is TX_IDLE), 0b101 as TX_BYTE (TX_LAST has that key as well), 0b100 as TX_STALL, 0xFE as frame byte 1
(DESIGN CHOICE, log 15). -/
def Obligations.WrittenKeysDecode : Prop :=
  decode [0b00000000, 0b00000010, 0b00000000, 0] = .ok .s0Stx ∧
  decode [0b00000000, 0b00000011, 0b00000000, 0] = .ok (.s0Skip 0x03) ∧
  decode [0b00000000, 0b00000011, 0b00000100, 0] = .ok .s4Etx ∧
  decode [0b00000000, 0b00000010, 0b00000100, 0] = .ok (.s4Abort 0x02) ∧
  decode [0b00000000, 0b00001001, 0b00000101, 0b00001001] = .ok (.s5Accept 0x09) ∧
  decode [0b00000000, 0b00001000, 0b00000101, 0b00001001] = .ok (.s5Reject 0x08) ∧
  decodeTableWord 8 0b101 = some .txByte ∧
  decodeTableWord 8 0b100 = some .txStall ∧
  decodeTableWord 8 1 = some .reset ∧
  decodeTableWord 8 0xFE = some .cmdKeyEvent

/-- Every row that a key selects (30_encoding.md R91) can be the next thing the machine runs: from any state, with its
operation placed, the next line is a cycle whose keys select it.  The placing is the model's own (log 1). -/
def Obligations.EveryKeyedRowCanRunNext : Prop :=
  ∀ (i : Instr) (s : State), i.wellFormed = true →
    ((isRxRow i = true ∨ isTxRow i = true ∨ i = .reset) →
      ∃ p, (placeInstr i s).program = .cycle p :: s.program ∧
        (isRxRow i = true → p.rst = false ∧ selectRx p (placeInstr i s) = some i) ∧
        (isTxRow i = true → p.rst = false ∧ selectTx p (placeInstr i s) = i) ∧
        (i = .reset → p.rst = true)) ∧
    (i = .ping → (placeInstr i s).program = .ping :: s.program)

/-! ### The step -/

/-- 30_encoding.md R91: at each edge, exactly one RX and one TX operation, or RESET alone; a step on a cycle line is that
edge.  (That a step takes its cycle from the line list is the model's own, log 1, log 9; so are the count of edges, log 4,
and the order of the two operations, log 3.) -/
def Obligations.StepRunsTheSelectedOperations : Prop :=
  ∀ (s : State) (p : PortIn) (k : List Line), s.program = .cycle p :: k →
    (p.rst = true → step s = exec .reset (s.setProgram k).tick) ∧
    (p.rst = false → ∃ rxOp t, selectRx p s = some rxOp ∧ exec rxOp (s.setProgram k).tick = .next t ∧
      step s = exec (selectTx p s) t)

/-- 30_encoding.md R94: what each line of the stimulus notation does, and that a request is presented "until the edge that
accepts the request".  The granularity, a directive being a step that takes no edge, is the model's own (log 2); so are
the data bytes past the 16th that a line may name (log 11) and `rx_byte` in a cycle without a byte (log 18). -/
def Obligations.StimulusLinesDoWhatTheNotationSays : Prop :=
  ∀ (s : State) (k : List Line),
    let idle : PortIn := ⟨false, false, 0, s.env.reqValid, s.env.reqCmd, s.env.reqLen, s.env.reqData, s.env.outReady⟩
    let sent : Env := { s.env with reqValid := s.env.reqValid && s.tx.busy }
    (s.program = .rst :: k → step s = runEdge { idle with rst := true } (s.setProgram k)) ∧
    (∀ b bs, s.program = .rx (b :: bs) :: k →
      step s = runEdge { idle with rxValid := true, rxByte := b } ((s.setProgram (.rx bs :: k)).setEnv sent)) ∧
    (s.program = .rx [] :: k → step s = .next (s.setProgram k)) ∧
    (∀ n, s.program = .idle (n + 1) :: k → step s = runEdge idle ((s.setProgram (.idle n :: k)).setEnv sent)) ∧
    (s.program = .idle 0 :: k → step s = .next (s.setProgram k)) ∧
    (∀ c n d, s.program = .txReq c n d :: k → ∃ t, step s = .next t ∧ SameRegisters s t ∧ t.program = k ∧
      t.edge = s.edge ∧ t.env.reqValid = true ∧ t.env.reqCmd = c ∧ t.env.reqLen = n ∧
      t.env.outReady = s.env.outReady ∧
      ∀ i, i < 16 → t.env.reqData.extractLsb' (8 * i) 8 = d.getD i 0x00) ∧
    (s.program = .ping :: k → step s = exec .ping (s.setProgram k)) ∧
    (s.program = .withdraw :: k → step s = .next ((s.setProgram k).setEnv { s.env with reqValid := false })) ∧
    (s.program = .sinkHold :: k → step s = .next ((s.setProgram k).setEnv { s.env with outReady := false })) ∧
    (s.program = .sinkGo :: k → step s = .next ((s.setProgram k).setEnv { s.env with outReady := true })) ∧
    (s.program = [] → step s = runEdge idle (s.setEnv sent))

/-- 60_exceptions.md R180: no operation raises anything, and no step faults or refuses. -/
def Obligations.NothingFaultsOrRefuses : Prop :=
  (∀ (i : Instr) (s : State), ∃ t, exec i s = .next t) ∧ ∀ (n : Nat) (s : State), SafeFor n s

/-! ### The RX operations -/

/-- 41_rx_parser.md R121: RX_IDLE, selected when no byte is presented, changes nothing but `fo_valid`, for any number of
idle cycles. -/
def Obligations.RxIdleClearsOnlyFoValid : Prop :=
  (∀ (p : PortIn) (s : State), selectRx p s = some .rxIdle ↔ p.rxValid = false) ∧
  (∀ s : State, ∃ t, exec .rxIdle s = .next t ∧ t.rx = s.rx ∧ FoHeld s t ∧ SameOutsideRx s t) ∧
  ∀ (ps : List PortIn) (s : State), NoReset ps → (∀ p ∈ ps, p.rxValid = false) →
    (runCycles ps s).rx = s.rx ∧ (runCycles ps s).fo.cmd = s.fo.cmd ∧ (runCycles ps s).fo.len = s.fo.len ∧
      (runCycles ps s).fo.data = s.fo.data

/-- 41_rx_parser.md R122: S0_SKIP discards a byte other than STX in stage 0. -/
def Obligations.S0SkipDiscardsTheByte : Prop :=
  (∀ (p : PortIn) (s : State) (b : Byte),
    selectRx p s = some (.s0Skip b) ↔ p.rxValid = true ∧ s.rx.stage = .stx ∧ p.rxByte = b ∧ b ≠ 0x02) ∧
  ∀ (b : Byte) (s : State), ∃ t, exec (.s0Skip b) s = .next t ∧ t.rx = s.rx ∧ FoHeld s t ∧ SameOutsideRx s t

/-- 41_rx_parser.md R123: STX in stage 0 starts a candidate, and the checksum range starts at this byte (the spec marks
the accumulator's start value as derived from 40_checksum.md R112). -/
def Obligations.S0StxStartsACandidate : Prop :=
  (∀ (p : PortIn) (s : State),
    selectRx p s = some .s0Stx ↔ p.rxValid = true ∧ s.rx.stage = .stx ∧ p.rxByte = 0x02) ∧
  ∀ s : State, ∃ t, exec .s0Stx s = .next t ∧ t.rx.sum = 0x02 ∧ t.rx.stage = .cmd ∧ t.rx.cmd = s.rx.cmd ∧
    t.rx.len = s.rx.len ∧ t.rx.cnt = s.rx.cnt ∧ t.rx.data = s.rx.data ∧ FoHeld s t ∧ SameOutsideRx s t

/-- 41_rx_parser.md R124: any byte in stage 1 is the command. -/
def Obligations.S1CmdTakesTheCommand : Prop :=
  (∀ (p : PortIn) (s : State) (b : Byte),
    selectRx p s = some (.s1Cmd b) ↔ p.rxValid = true ∧ s.rx.stage = .cmd ∧ p.rxByte = b) ∧
  ∀ (b : Byte) (s : State), ∃ t, exec (.s1Cmd b) s = .next t ∧ t.rx.cmd = b ∧ t.rx.sum = s.rx.sum + b ∧
    t.rx.stage = .len ∧ t.rx.len = s.rx.len ∧ t.rx.cnt = s.rx.cnt ∧ t.rx.data = s.rx.data ∧ FoHeld s t ∧
    SameOutsideRx s t

/-- 41_rx_parser.md R125: the raw LEN byte is summed, its clamp to 16 is kept, and length 0 goes straight to stage 4. -/
def Obligations.S2LenClampsTheLength : Prop :=
  (∀ (p : PortIn) (s : State) (b : Byte),
    selectRx p s = some (.s2Len b) ↔ p.rxValid = true ∧ s.rx.stage = .len ∧ p.rxByte = b) ∧
  ∀ (b : Byte) (s : State), ∃ t, exec (.s2Len b) s = .next t ∧ t.rx.len.toNat = min b.toNat 16 ∧ t.rx.cnt = 0 ∧
    t.rx.sum = s.rx.sum + b ∧ (b = 0 → t.rx.stage = .etx) ∧ (b ≠ 0 → t.rx.stage = .data) ∧ t.rx.cmd = s.rx.cmd ∧
    t.rx.data = s.rx.data ∧ FoHeld s t ∧ SameOutsideRx s t

/-- 41_rx_parser.md R126: any byte in stage 3 is DATA byte `rx_cnt`; the index stays in the buffer wherever the parser's
invariant holds.  The effect is stated of every state; with `rx_cnt` of 16 or more, of which the spec says nothing, that no
entry is written is the model's choice (DESIGN CHOICE, log 6). -/
def Obligations.S3DataStoresTheByte : Prop :=
  (∀ (p : PortIn) (s : State) (b : Byte),
    selectRx p s = some (.s3Data b) ↔ p.rxValid = true ∧ s.rx.stage = .data ∧ p.rxByte = b) ∧
  (∀ s : State, RxInv s.rx → s.rx.stage = .data → s.rx.cnt.toNat ≤ 15) ∧
  ∀ (b : Byte) (s : State), ∃ t, exec (.s3Data b) s = .next t ∧
    (∀ (i : Nat) (h : i < 16), t.rx.data[i] = if i = s.rx.cnt.toNat then b else s.rx.data[i]) ∧
    t.rx.cnt = s.rx.cnt + 1 ∧ t.rx.sum = s.rx.sum + b ∧ (s.rx.cnt + 1 = s.rx.len → t.rx.stage = .etx) ∧
    (s.rx.cnt + 1 ≠ s.rx.len → t.rx.stage = .data) ∧ t.rx.cmd = s.rx.cmd ∧ t.rx.len = s.rx.len ∧ FoHeld s t ∧
    SameOutsideRx s t

/-- 41_rx_parser.md R127: ETX in stage 4 is the last byte of the checksum range. -/
def Obligations.S4EtxEndsTheChecksumRange : Prop :=
  (∀ (p : PortIn) (s : State),
    selectRx p s = some .s4Etx ↔ p.rxValid = true ∧ s.rx.stage = .etx ∧ p.rxByte = 0x03) ∧
  ∀ s : State, ∃ t, exec .s4Etx s = .next t ∧ t.rx.sum = s.rx.sum + 0x03 ∧ t.rx.stage = .chk ∧ t.rx.cmd = s.rx.cmd ∧
    t.rx.len = s.rx.len ∧ t.rx.cnt = s.rx.cnt ∧ t.rx.data = s.rx.data ∧ FoHeld s t ∧ SameOutsideRx s t

/-- 41_rx_parser.md R128: any other byte in stage 4 is consumed with the candidate, silently (that the byte itself is
consumed is marked derived, 90_conflicts.md C3). -/
def Obligations.S4AbortDropsTheCandidate : Prop :=
  (∀ (p : PortIn) (s : State) (b : Byte),
    selectRx p s = some (.s4Abort b) ↔ p.rxValid = true ∧ s.rx.stage = .etx ∧ p.rxByte = b ∧ b ≠ 0x03) ∧
  ∀ (b : Byte) (s : State), ∃ t, exec (.s4Abort b) s = .next t ∧ t.rx = { s.rx with stage := .stx } ∧ FoHeld s t ∧
    SameOutsideRx s t

/-- 41_rx_parser.md R129: a matching CHK byte emits the frame, its data zero-filled beyond its length. -/
def Obligations.S5AcceptEmitsTheFrame : Prop :=
  (∀ (p : PortIn) (s : State) (b : Byte),
    selectRx p s = some (.s5Accept b) ↔ p.rxValid = true ∧ s.rx.stage = .chk ∧ p.rxByte = b ∧ b = s.rx.sum) ∧
  ∀ (b : Byte) (s : State), ∃ t, exec (.s5Accept b) s = .next t ∧ t.fo.valid = true ∧ t.fo.cmd = s.rx.cmd ∧
    t.fo.len = s.rx.len ∧
    (∀ (i : Nat) (h : i < 16), t.fo.data[i] = if i < s.rx.len.toNat then s.rx.data[i] else 0x00) ∧
    t.rx = { s.rx with stage := .stx } ∧ SameOutsideRx s t

/-- 41_rx_parser.md R130: any other CHK byte, 0x02 too, is consumed with the candidate, silently. -/
def Obligations.S5RejectDropsTheCandidate : Prop :=
  (∀ (p : PortIn) (s : State) (b : Byte),
    selectRx p s = some (.s5Reject b) ↔ p.rxValid = true ∧ s.rx.stage = .chk ∧ p.rxByte = b ∧ b ≠ s.rx.sum) ∧
  ∀ (b : Byte) (s : State), ∃ t, exec (.s5Reject b) s = .next t ∧ t.rx = { s.rx with stage := .stx } ∧ FoHeld s t ∧
    SameOutsideRx s t

/-- 30_encoding.md R83, R84: the two assigned command values and every other one are received alike, stored unchanged.
That a row's meaning is its reception as frame byte 1 is the model's (log 14). -/
def Obligations.EveryCommandValueIsStoredUnchanged : Prop :=
  ∀ (c : Byte) (s : State), ∃ t, t.rx.cmd = c ∧ t.rx.sum = s.rx.sum + c ∧ t.rx.stage = .len ∧ t.rx.len = s.rx.len ∧
    t.rx.cnt = s.rx.cnt ∧ t.rx.data = s.rx.data ∧ FoHeld s t ∧ SameOutsideRx s t ∧
    exec (.cmdOther c) s = .next t ∧ (c = 0x00 → exec .cmdPing s = .next t) ∧
    (c = 0xFE → exec .cmdKeyEvent s = .next t) ∧ exec (.s1Cmd c) s = .next t

/-! ### The TX operations -/

/-- 42_tx_framer.md R153: TX_IDLE clears `tx_done` and changes nothing else. -/
def Obligations.TxIdleClearsOnlyTxDone : Prop :=
  (∀ (p : PortIn) (s : State), selectTx p s = .txIdle ↔ s.tx.busy = false ∧ p.reqValid = false) ∧
  ∀ s : State, ∃ t, exec .txIdle s = .next t ∧ t.tx = { s.tx with done := false } ∧ SameOutsideTx s t

/-- 42_tx_framer.md R151: TX_ACCEPT latches the request, with the checksum of what will be sent, and acquires the
exclusion; STX is offered in the next cycle, and a request still presented then waits. -/
def Obligations.TxAcceptLatchesTheRequest : Prop :=
  (∀ (p : PortIn) (s : State) (c n : Byte) (d : Bytes16),
    selectTx p s = .txAccept c n d ↔ s.tx.busy = false ∧ p.reqValid = true ∧ p.reqCmd = c ∧ p.reqLen = n ∧
      (∀ (i : Nat) (h : i < 16), d[i] = p.reqData.extractLsb' (8 * i) 8)) ∧
  ∀ (c n : Byte) (d : Bytes16) (s : State), ∃ t, exec (.txAccept c n d) s = .next t ∧ t.tx.cmd = c ∧
    t.tx.len.toNat = min n.toNat 16 ∧ t.tx.data = d ∧
    t.tx.chk = checksum ([0x02, c, BitVec.ofNat 8 (min n.toNat 16)] ++ d.toList.take (min n.toNat 16) ++ [0x03]) ∧
    t.tx.pos = 0 ∧ t.tx.busy = true ∧ t.tx.done = false ∧ SameOutsideTx s t ∧
    (outputs t).reqReady = false ∧ (outputs t).outValid = true ∧ (outputs t).outByte = 0x02 ∧
    ∀ q : PortIn, selectTx q t = if q.outReady = true then .txByte else .txStall

/-- 42_tx_framer.md R156: TX_STALL clears `tx_done` and changes nothing else; through any stalls the same byte stays
offered. -/
def Obligations.TxStallHoldsTheOfferedByte : Prop :=
  (∀ (p : PortIn) (s : State), selectTx p s = .txStall ↔ s.tx.busy = true ∧ p.outReady = false) ∧
  (∀ s : State, ∃ t, exec .txStall s = .next t ∧ t.tx = { s.tx with done := false } ∧ SameOutsideTx s t) ∧
  ∀ (ps : List PortIn) (s : State), NoReset ps → (∀ p ∈ ps, p.outReady = false) → s.tx.busy = true → TxInv s.tx →
    (outputs (runCycles ps s)).outValid = true ∧ (outputs (runCycles ps s)).outByte = (outputs s).outByte ∧
      (runCycles ps s).tx.pos = s.tx.pos

/-- 42_tx_framer.md R155: a byte taken before the last one moves `tx_pos`; the last one taken releases the exclusion and
reports success, and `tx_pos` keeps its value. -/
def Obligations.TxByteAndTxLastTakeTheOfferedByte : Prop :=
  (∀ (p : PortIn) (s : State), selectTx p s = .txByte ↔
    s.tx.busy = true ∧ p.outReady = true ∧ s.tx.pos.toNat < 4 + s.tx.len.toNat) ∧
  (∀ (p : PortIn) (s : State), TxInv s.tx → (selectTx p s = .txLast ↔
    s.tx.busy = true ∧ p.outReady = true ∧ s.tx.pos.toNat = 4 + s.tx.len.toNat)) ∧
  (∀ s : State, ∃ t, exec .txByte s = .next t ∧ t.tx = { s.tx with pos := s.tx.pos + 1, done := false } ∧
    SameOutsideTx s t) ∧
  (∀ s : State, ∃ t, exec .txLast s = .next t ∧ t.tx = { s.tx with busy := false, done := true } ∧ SameOutsideTx s t ∧
    (outputs t).reqReady = true ∧ (outputs t).outValid = false ∧ (outputs t).txDone = true)

/-- 42_tx_framer.md R152: `tx_req_ready` is NOT `tx_busy`; a request presented while busy is neither accepted nor read,
and is accepted at the first edge with `tx_busy = 0` at which it is still presented. -/
def Obligations.RequestWaitsForTheExclusion : Prop :=
  (∀ s : State, (outputs s).reqReady = !s.tx.busy) ∧
  (∀ (p q : PortIn) (s : State), s.tx.busy = true → SameButRequest p q →
    selectTx p s = selectTx q s ∧ (selectTx p s = .txStall ∨ selectTx p s = .txByte ∨ selectTx p s = .txLast) ∧
      edgeNext p s = edgeNext q s) ∧
  (∀ (p : PortIn) (s : State), s.tx.busy = false → p.reqValid = true →
    selectTx p s = .txAccept p.reqCmd p.reqLen (unpackBytes p.reqData)) ∧
  ∀ (ps : List PortIn) (p : PortIn) (s : State), NoReset ps → p.rst = false → p.reqValid = true →
    (∀ n, n ≤ ps.length → (runCycles (ps.take n) s).tx.busy = decide (n < ps.length)) →
    (edgeNext p (runCycles ps s)).tx.busy = true ∧ (edgeNext p (runCycles ps s)).tx.cmd = p.reqCmd ∧
      (edgeNext p (runCycles ps s)).tx.pos = 0

/-- 42_tx_framer.md R158, 30_encoding.md R95: a ping is the request with command 0x00 and length 0, and whatever the data
ports hold its frame is `02 00 00 03 05`.  That it takes the form of a directive is R94's; that its meaning is that
directive is the model's (log 12). -/
def Obligations.PingRequestsTheEmptyFrame : Prop :=
  (∀ s : State, ∃ t, exec .ping s = .next t ∧ t.env.reqValid = true ∧ t.env.reqCmd = 0x00 ∧ t.env.reqLen = 0x00 ∧
    t.env.reqData = 0 ∧ t.env.outReady = s.env.outReady ∧ SameRegisters s t ∧ t.program = s.program ∧
    t.edge = s.edge ∧ t.answer = s.answer) ∧
  (∀ (d : Bytes16) (t : TxRegs) (free : Byte),
    (List.range 5).map (fun k => frameByte (txLatch 0x00 0x00 d t) k free) = [0x02, 0x00, 0x00, 0x03, 0x05] ∧
      (txLatch 0x00 0x00 d t).len = 0)

/-! ### RESET and the state it leaves -/

/-- 70_reset_and_hazards.md R200: at an edge with `rst = 1` every register takes its reset value, whatever else the ports
present; no byte is consumed or taken, and more reset edges leave the same registers. -/
def Obligations.ResetOverridesEverything : Prop :=
  (∀ s : State, ∃ t, exec .reset s = .next t ∧ Fresh t ∧ t.env = s.env ∧ t.program = s.program ∧ t.edge = s.edge ∧
    t.answer = s.answer) ∧
  ∀ (p : PortIn) (s : State), p.rst = true → Fresh (edgeNext p s) ∧ emittedFrame (edgeNext p s) = none ∧
    takenByte p s = none ∧ lastAt p s = false ∧
    ∀ q : PortIn, q.rst = true → SameRegisters (edgeNext p s) (edgeNext q (edgeNext p s))

/-- 10_state.md R41: the value of every register in the reset state, and after a reset edge whatever the registers held
before it. -/
def Obligations.RegistersAtReset : Prop :=
  ∀ t : State, (t = State.reset ∨ ∃ (p : PortIn) (s : State), p.rst = true ∧ t = edgeNext p s) →
    stageCode t.rx.stage = 0 ∧ t.rx.cmd = 0 ∧ t.rx.len = 0 ∧ t.rx.cnt = 0 ∧ t.rx.sum = 0 ∧
    t.rx.data.toList = List.replicate 16 0x00 ∧ t.fo.valid = false ∧ t.fo.cmd = 0 ∧ t.fo.len = 0 ∧
    t.fo.data.toList = List.replicate 16 0x00 ∧ t.tx.busy = false ∧ t.tx.pos = 0 ∧ t.tx.cmd = 0 ∧ t.tx.len = 0 ∧
    t.tx.chk = 0 ∧ t.tx.data.toList = List.replicate 16 0x00 ∧ t.tx.done = false

/-! ### The functions -/

/-- 40_checksum.md R110: CHECKSUM gives the low 8 bits of the unsigned sum and writes no register or port.  Where its
value is shown is the model's choice (log 10). -/
def Obligations.ChecksumIsTheSumModulo256 : Prop :=
  ∀ (l : List Byte) (s : State), ∃ t v, exec (.checksum l) s = .next t ∧ t.answer = some (.byte v) ∧
    v.toNat = (l.map BitVec.toNat).sum % 256 ∧ SameButAnswer s t

/-- 40_checksum.md R113: VALIDATE is the exact comparison of the CHK byte with `rx_sum`, it writes nothing, and it is what
splits S5_ACCEPT from S5_REJECT.  Where its verdict is shown is the model's choice (log 10). -/
def Obligations.ValidateComparesChkWithRxSum : Prop :=
  (∀ (b : Byte) (s : State), ∃ t v, exec (.validate b) s = .next t ∧ t.answer = some (.valid v) ∧
    (v = true ↔ b = s.rx.sum) ∧ SameButAnswer s t) ∧
  ∀ (p : PortIn) (s t : State), p.rxValid = true → s.rx.stage = .chk → exec (.validate p.rxByte) s = .next t →
    (t.answer = some (.valid true) → selectRx p s = some (.s5Accept p.rxByte)) ∧
    (t.answer = some (.valid false) → selectRx p s = some (.s5Reject p.rxByte))

/-- 42_tx_framer.md R150: TxBuild keeps at most the first 16 payload bytes and appends the checksum of all that precedes
it; it writes nothing.  Where its frame is shown is the model's choice (log 10). -/
def Obligations.TxBuildConstructsTheFrame : Prop :=
  ∀ (c : Byte) (p : List Byte) (s : State), ∃ t f, exec (.txBuild c p) s = .next t ∧ t.answer = some (.frame f) ∧
    f.length = 5 + min p.length 16 ∧ f.take 3 = [0x02, c, BitVec.ofNat 8 (min p.length 16)] ∧
    (f.drop 3).take (min p.length 16) = p.take 16 ∧
    f.drop (3 + min p.length 16) = [0x03, BitVec.ofNat 8 ((f.take (4 + min p.length 16)).map BitVec.toNat).sum] ∧
    SameButAnswer s t

/-- 40_checksum.md R111 (derived there): the checksum splits over concatenation. -/
def Obligations.ChecksumSplitsOverConcatenation : Prop :=
  ∀ (a b : List Byte) (x : Byte), checksum (a ++ b) = checksum a + checksum b ∧ checksum (a ++ [x]) = checksum a + x

/-- 40_checksum.md R116 (derived there): reordered bytes have the same checksum, and one changed byte always changes
it. -/
def Obligations.ChecksumDetectsOneChangedByte : Prop :=
  (∀ a b : List Byte, a.Perm b → checksum a = checksum b) ∧
  (∀ (a b : List Byte) (x y : Byte), checksum (a ++ x :: b) = checksum (a ++ y :: b) ↔ x = y) ∧
  ∀ (a b c : List Byte) (x y k : Byte),
    checksum (a ++ (x + k) :: (b ++ (y - k) :: c)) = checksum (a ++ x :: (b ++ y :: c))

/-! ### Whole-machine rules -/

/-- 41_rx_parser.md R136 but for `rx_sum`, 10_state.md R35's legal values, 40_checksum.md R114 (the spec marks R136
derived): every step keeps the invariant, from every state that meets it. -/
def Obligations.EveryStepKeepsTheInvariant : Prop :=
  ∀ s t : State, Inv s → step s = .next t → Inv t

/-- The invariant holds at reset. -/
def Obligations.InvariantHoldsAtReset : Prop := Inv State.reset

/-- 10_state.md R27, R31: only the command rule writes `rx_cmd`; `rx_sum` is set by the STX rule and added to by the rules
of stages 1, 2, 3 and the accepting rule of stage 4, and by no other. -/
def Obligations.OnlyTheNamedRulesWriteCmdAndSum : Prop :=
  ∀ (p : PortIn) (s : State), p.rst = false →
    ((edgeNext p s).rx.cmd = if p.rxValid = true ∧ s.rx.stage = .cmd then p.rxByte else s.rx.cmd) ∧
    ((edgeNext p s).rx.sum =
      if p.rxValid = true ∧ s.rx.stage = .stx ∧ p.rxByte = 0x02 then 0x02
      else if p.rxValid = true ∧ (s.rx.stage = .cmd ∨ s.rx.stage = .len ∨ s.rx.stage = .data ∨
        (s.rx.stage = .etx ∧ p.rxByte = 0x03)) then s.rx.sum + p.rxByte
      else s.rx.sum)

/-- 10_state.md R28, R29, R30 (their rule-by-rule part): only the length rule writes `rx_len`, only the length and data
rules write `rx_cnt`, only the data rule writes `rx_data`, at entry `rx_cnt`.  With `rx_cnt` of 16 or more in stage 3, of
which the spec says nothing, that no entry is written is the model's choice (DESIGN CHOICE, log 6). -/
def Obligations.OnlyTheNamedRulesWriteLenCntAndData : Prop :=
  ∀ (p : PortIn) (s : State), p.rst = false →
    ((edgeNext p s).rx.len ≠ s.rx.len → p.rxValid = true ∧ s.rx.stage = .len) ∧
    (p.rxValid = true → s.rx.stage = .len → (edgeNext p s).rx.len.toNat = min p.rxByte.toNat 16) ∧
    ((edgeNext p s).rx.cnt =
      if p.rxValid = true ∧ s.rx.stage = .len then 0
      else if p.rxValid = true ∧ s.rx.stage = .data then s.rx.cnt + 1
      else s.rx.cnt) ∧
    ∀ (i : Nat) (h : i < 16), (edgeNext p s).rx.data[i] =
      if p.rxValid = true ∧ s.rx.stage = .data ∧ i = s.rx.cnt.toNat then p.rxByte else s.rx.data[i]

/-- 10_state.md R33: the frame outputs after any edge without reset: an emission, or `fo_valid = 0` with the last frame
held. -/
def Obligations.FoValidPulsesAtAnEmissionOnly : Prop :=
  ∀ (p : PortIn) (s : State), p.rst = false →
    ((edgeNext p s).fo.valid = true ↔ p.rxValid = true ∧ s.rx.stage = .chk ∧ p.rxByte = s.rx.sum) ∧
    ((edgeNext p s).fo.valid = true → (edgeNext p s).fo.cmd = s.rx.cmd ∧ (edgeNext p s).fo.len = s.rx.len ∧
      takeBytes (edgeNext p s).fo.len (edgeNext p s).fo.data = takeBytes s.rx.len s.rx.data ∧
      ∀ (i : Nat) (h : i < 16), s.rx.len.toNat ≤ i → (edgeNext p s).fo.data[i] = 0x00) ∧
    ((edgeNext p s).fo.valid = false → FoHeld s (edgeNext p s))

/-- 10_state.md R36, 20_memory.md R75: only an acceptance acquires the exclusion, testing and setting it at one edge; only
the last byte or a reset releases it. -/
def Obligations.ExclusionIsTakenAndReleasedByTheNamedRules : Prop :=
  ∀ (p : PortIn) (s : State),
    (s.tx.busy = false → ((edgeNext p s).tx.busy = true ↔ p.rst = false ∧ p.reqValid = true)) ∧
    (s.tx.busy = true → ((edgeNext p s).tx.busy = false ↔ p.rst = true ∨ lastAt p s = true))

/-- 42_tx_framer.md R157: `tx_done` is 1 in the one cycle after a TX_LAST edge and 0 after every other edge, a reset edge
too. -/
def Obligations.TxDonePulsesAfterTxLastOnly : Prop :=
  ∀ (p : PortIn) (s : State), ((edgeNext p s).tx.done = true ↔ p.rst = false ∧ selectTx p s = .txLast)

/-- 20_memory.md R73: two runs whose cycles present the same to the RX side give the same frames and RX registers,
whatever the TX side does; and the same with the sides exchanged. -/
def Obligations.RxAndTxDoNotInfluenceEachOther : Prop :=
  ∀ (ps qs : List PortIn) (s t : State), s.edge = t.edge →
    (List.Forall₂ SameRxInputs ps qs → s.rx = t.rx → s.fo = t.fo →
      (observe ps s).frames = (observe qs t).frames ∧ (runCycles ps s).rx = (runCycles qs t).rx ∧
        (runCycles ps s).fo = (runCycles qs t).fo) ∧
    (List.Forall₂ SameTxInputs ps qs → s.tx = t.tx →
      (observe ps s).taken = (observe qs t).taken ∧ (observe ps s).lasts = (observe qs t).lasts ∧
        (runCycles ps s).tx = (runCycles qs t).tx)

/-- 30_encoding.md R90: byte `i` of a vector port is at bits `[8i+7:8i]`, both ways. -/
def Obligations.VectorPortsPackByteIAtBits8i : Prop :=
  (∀ (d : Bytes16) (i j : Nat) (h : i < 16), j < 8 → (packBytes d).getLsbD (8 * i + j) = d[i].getLsbD j) ∧
  (∀ (v : BitVec 128) (i j : Nat) (h : i < 16), j < 8 → (unpackBytes v)[i].getLsbD j = v.getLsbD (8 * i + j)) ∧
  ∀ v : BitVec 128, packBytes (unpackBytes v) = v

/-- 60_exceptions.md R181, R182: a candidate is dropped for exactly two causes, each at its operation, and neither leaves
anything but stage 0 behind: the frame outputs are as after any silent edge. -/
def Obligations.DesynchronisationIsSilentAndHasTwoCauses : Prop :=
  ∀ (p : PortIn) (s : State), p.rst = false →
    (desyncAt p s = some .badEtx ↔ p.rxValid = true ∧ s.rx.stage = .etx ∧ p.rxByte ≠ 0x03) ∧
    (desyncAt p s = some .badChk ↔ p.rxValid = true ∧ s.rx.stage = .chk ∧ p.rxByte ≠ s.rx.sum) ∧
    (desyncAt p s ≠ none → (edgeNext p s).rx = { s.rx with stage := .stx } ∧ FoHeld s (edgeNext p s)) ∧
    (s.rx.stage ≠ .stx → (edgeNext p s).rx.stage = .stx → emittedFrame (edgeNext p s) = none → desyncAt p s ≠ none)

/-! ### Byte sequences and frames -/

/-- 41_rx_parser.md R120: at every edge without reset that presents a byte, the parser's registers and the frame emitted
are `RxStep`'s; where no byte is presented, the operation is RX_IDLE; without an emission `fo_valid` is 0. -/
def Obligations.AnEdgeIsOneRxStep : Prop :=
  ∀ (p : PortIn) (s : State), p.rst = false →
    (p.rxValid = true →
      (edgeNext p s).rx = (rxStep s.rx p.rxByte).1 ∧ emittedFrame (edgeNext p s) = (rxStep s.rx p.rxByte).2) ∧
    (p.rxValid = false → selectRx p s = some .rxIdle ∧ (edgeNext p s).rx = s.rx ∧ emittedFrame (edgeNext p s) = none) ∧
    (emittedFrame (edgeNext p s) = none → (edgeNext p s).fo.valid = false)

/-- 41_rx_parser.md R133 (derived there): the frames of a run without reset, and the parser's state after it, depend on
the bytes consumed alone, however they are spread over cycles. -/
def Obligations.FramesDependOnTheBytesAlone : Prop :=
  ∀ (ps : List PortIn) (s : State), NoReset ps →
    framesOf ps s = (rxFeed s.rx (rxBytes ps)).2 ∧ (runCycles ps s).rx = (rxFeed s.rx (rxBytes ps)).1

/-- 42_tx_framer.md R162 (derived there): from stage 0, the bytes of a built frame, however spread over cycles, emit
exactly that frame, its payload truncated to 16. -/
def Obligations.RoundTrip : Prop :=
  ∀ (c : Byte) (payload : List Byte) (ps : List PortIn) (s : State), NoReset ps → RxAtRest s →
    rxBytes ps = txBuild c payload → framesOf ps s = [⟨c, payload.take 16⟩] ∧ RxAtRest (runCycles ps s)

/-- 41_rx_parser.md R137 (derived there): a frame with a corrupted CHK byte followed at once by a valid frame emits the
valid one alone. -/
def Obligations.CorruptedChecksumIsDroppedAndTheNextFrameFound : Prop :=
  ∀ (c n c' n' x : Byte) (d d' : List Byte) (r : RxRegs), r.stage = .stx →
    d.length = min n.toNat 16 → d'.length = min n'.toNat 16 →
    x ≠ checksum ([0x02, c, n] ++ d ++ [0x03]) →
    (rxFeed r (([0x02, c, n] ++ d ++ [0x03, x]) ++
      ([0x02, c', n'] ++ d' ++ [0x03, checksum ([0x02, c', n'] ++ d' ++ [0x03])]))).2 = [⟨c', d'⟩]

/-- 30_encoding.md R82 (derived there): a raw LEN of 17..255 with exactly 16 DATA bytes is a valid frame when its CHK
covers the raw LEN; the byte after the 16th is the ETX candidate, and the frame is emitted only if it is ETX and the next
byte matches the running sum. -/
def Obligations.OversizedLenTakesSixteenDataBytes : Prop :=
  ∀ (c n x y : Byte) (d : List Byte) (r : RxRegs), r.stage = .stx → 16 < n.toNat → d.length = 16 →
    (rxFeed r ([0x02, c, n] ++ d ++ [x, y])).2 =
      if x = 0x03 ∧ y = checksum ([0x02, c, n] ++ d ++ [0x03]) then [⟨c, d⟩] else []

/-- 40_checksum.md R112 (derived there): while a candidate is in progress, `rx_sum` is the checksum of the candidate's
bytes. -/
def Obligations.RxSumIsTheChecksumOfTheCandidate : Prop :=
  ∀ (bytes : List Byte) (r : RxRegs), r.stage = .stx → bytes ≠ [] →
    (∀ n, 1 ≤ n → n ≤ bytes.length → (rxFeed r (bytes.take n)).1.stage ≠ .stx) →
    (rxFeed r bytes).1.sum = checksum bytes

/-- 10_state.md R40 and 41_rx_parser.md R132 (derived there): in stage 0 the parser's other registers have no effect on
any later frame, stale data included. -/
def Obligations.StageZeroRegistersAreUnobservable : Prop :=
  ∀ (r q : RxRegs) (bytes : List Byte), r.stage = .stx → q.stage = .stx →
    (rxFeed r bytes).2 = (rxFeed q bytes).2 ∧ (rxFeed r bytes).1.stage = (rxFeed q bytes).1.stage

/-- 70_reset_and_hazards.md R211 (derived there): from stage 0, where every emission leaves the parser, no frame is
emitted within four edges. -/
def Obligations.EmissionsAreFiveEdgesApart : Prop :=
  ∀ (p : PortIn) (ps : List PortIn) (s : State), emittedFrame (edgeNext p s) ≠ none → ps.length ≤ 4 →
    framesOf ps (edgeNext p s) = []

/-- 10_state.md R25, 41_rx_parser.md R134: fed the same bytes in any chunks, the source's buffered parser and the
hardware's register parser emit the same frames and come to rest in the same stage (the spec marks R25 derived). -/
def Obligations.SourceParserAndHardwareParserAgree : Prop :=
  ∀ chunks : List (List Byte),
    (SrcCodec.create.feedAll chunks).2 = (rxFeed RxRegs.reset chunks.flatten).2 ∧
    (SrcCodec.create.feedAll chunks).1.stage = (rxFeed RxRegs.reset chunks.flatten).1.stage

/-! ### The transmit stream -/

/-- 42_tx_framer.md R154: what is offered to the sink at each position while a frame is in flight, and that an accepted
request's bytes, in order, are its built frame. -/
def Obligations.OfferedBytesSpellTheFrame : Prop :=
  (∀ s : State, (outputs s).outValid = s.tx.busy) ∧
  (∀ s : State, s.tx.busy = true → TxInv s.tx →
    (s.tx.pos.toNat = 0 → (outputs s).outByte = 0x02) ∧
    (s.tx.pos.toNat = 1 → (outputs s).outByte = s.tx.cmd) ∧
    (s.tx.pos.toNat = 2 → (outputs s).outByte = BitVec.ofNat 8 s.tx.len.toNat) ∧
    (∀ (i : Nat) (h : i < 16), i < s.tx.len.toNat → s.tx.pos.toNat = 3 + i → (outputs s).outByte = s.tx.data[i]) ∧
    (s.tx.pos.toNat = 3 + s.tx.len.toNat → (outputs s).outByte = 0x03) ∧
    (s.tx.pos.toNat = 4 + s.tx.len.toNat → (outputs s).outByte = s.tx.chk)) ∧
  ∀ (c n : Byte) (d : Bytes16) (t : TxRegs) (free : Byte),
    (List.range (5 + min n.toNat 16)).map (fun k => frameByte (txLatch c n d t) k free) =
      txBuild c (d.toList.take n.toNat)

/-- 42_tx_framer.md R161 (derived there): after a request is accepted, the bytes the sink takes are its built frame's, in
order, one for each cycle the sink is ready, whatever the stalls and whatever is requested meanwhile. -/
def Obligations.SinkTakesExactlyTheBuiltFrame : Prop :=
  ∀ (p : PortIn) (ps : List PortIn) (s : State), p.rst = false → p.reqValid = true → TxIdle s → NoReset ps →
    readyCount ps ≤ 5 + min p.reqLen.toNat 16 →
    takenOf (p :: ps) s =
      (txBuild p.reqCmd ((unpackBytes p.reqData).toList.take p.reqLen.toNat)).take (readyCount ps)

/-- 70_reset_and_hazards.md R212, 42_tx_framer.md R157: a frame of `L` data bytes accepted at edge `t` has its one TX_LAST at
edge `t + 5 + L + s`, `s` being the cycles the sink stalls; `tx_done` shows in the next cycle and the exclusion is
free. -/
def Obligations.TxLastComesAfterFivePlusLPlusStalls : Prop :=
  ∀ (p q : PortIn) (ps : List PortIn) (s : State), p.rst = false → p.reqValid = true → TxIdle s →
    NoReset (ps ++ [q]) → q.outReady = true → readyCount (ps ++ [q]) = 5 + min p.reqLen.toNat 16 →
    (observe (p :: (ps ++ [q])) s).lasts = [s.edge + ps.length + 1] ∧
      ps.length + 1 = 5 + min p.reqLen.toNat 16 + ps.countP (fun c => !c.outReady) ∧
      (runCycles (p :: (ps ++ [q])) s).tx.done = true ∧ TxIdle (runCycles (p :: (ps ++ [q])) s)

/-- 42_tx_framer.md R153: a request withdrawn before it is accepted leaves no trace: two runs that differ only in what the
request ports present while the exclusion is held are the same run. -/
def Obligations.WithdrawnRequestLeavesNoTrace : Prop :=
  ∀ (ps qs : List PortIn) (s : State), List.Forall₂ SameButRequest ps qs →
    (∀ n (h : n < ps.length) (h' : n < qs.length), ps[n] = qs[n] ∨ (runCycles (ps.take n) s).tx.busy = true) →
    observe ps s = observe qs s

/-- 70_reset_and_hazards.md R210, 20_memory.md R75: if the sink does not stall for ever, a frame in flight is finished. -/
def Obligations.FrameInFlightFinishesUnderAFairSink : Prop :=
  ∀ (inp : Nat → PortIn) (s : State), SinkFair inp → (∀ n, (inp n).rst = false) → TxInv s.tx → s.tx.busy = true →
    ∃ n, lastAt (inp n) (stateAt inp s n) = true
end

