-- ==== Sys2Proof/Laws/Decode.lean ====
section
/-! SUPPORT. What the keys of 30_encoding.md R91 select. -/

namespace Sys2Proof

open Config Machine

/-- Bit `i` of `{rx_stage, rx_byte}`. -/
theorem getLsbD_rxKey (c : BitVec 3) (b : Byte) (i : Nat) :
    (rxKey c b).getLsbD i = if i < 8 then b.getLsbD i else c.getLsbD (i - 8) :=
  (BitVec.getLsbD_append (x := c) (y := b)).trans (by simp)

@[simp] theorem keyStage_rxKey (c : BitVec 3) (b : Byte) : keyStage (rxKey c b) = c := by
  apply BitVec.eq_of_getLsbD_eq
  intro i hi
  simp [keyStage, getLsbD_rxKey, hi]

@[simp] theorem keyByte_rxKey (c : BitVec 3) (b : Byte) : keyByte (rxKey c b) = b := by
  apply BitVec.eq_of_getLsbD_eq
  intro i hi
  simp [keyByte, getLsbD_rxKey, hi]

/-- A key is its two fields. -/
theorem rxKey_fields (k : BitVec 11) : rxKey (keyStage k) (keyByte k) = k := by
  apply BitVec.eq_of_getLsbD_eq
  intro i hi
  by_cases h : i < 8
  · simp [getLsbD_rxKey, keyByte, h]
  · have h3 : i - 8 < 3 := by omega
    have h8 : 8 + (i - 8) = i := by omega
    simp [getLsbD_rxKey, keyStage, h, h3, h8]

@[simp] theorem decodeRx_idle (k : BitVec 11) (sum : Byte) : decodeRx false k sum = some .rxIdle := rfl

@[simp] theorem decodeRx_stx (b sum : Byte) :
    decodeRx true (rxKey 0#3 b) sum = some (if b = STX then .s0Stx else .s0Skip b) := by simp [decodeRx]

@[simp] theorem decodeRx_cmd (b sum : Byte) : decodeRx true (rxKey 1#3 b) sum = some (.s1Cmd b) := by simp [decodeRx]

@[simp] theorem decodeRx_len (b sum : Byte) : decodeRx true (rxKey 2#3 b) sum = some (.s2Len b) := by simp [decodeRx]

@[simp] theorem decodeRx_data (b sum : Byte) : decodeRx true (rxKey 3#3 b) sum = some (.s3Data b) := by simp [decodeRx]

@[simp] theorem decodeRx_etx (b sum : Byte) :
    decodeRx true (rxKey 4#3 b) sum = some (if b = ETX then .s4Etx else .s4Abort b) := by simp [decodeRx]

@[simp] theorem decodeRx_chk (b sum : Byte) :
    decodeRx true (rxKey 5#3 b) sum = some (if chkValid b sum then .s5Accept b else .s5Reject b) := by simp [decodeRx]

@[simp] theorem chkValid_iff (b sum : Byte) : chkValid b sum = true ↔ b = sum := by simp [chkValid]

section
variable (pos len : BitVec 5) (cmd n : Byte) (d : Bytes16) (b : Bool)

/-- TX_IDLE's key: the exclusion is free and nothing is presented. -/
@[simp] theorem decodeTx_free (r : Bool) : decodeTx (txKey false false r) pos len cmd n d = .txIdle := by
  cases r <;> simp [decodeTx, txKey]

/-- TX_ACCEPT's key: the exclusion is free and a request is presented. -/
@[simp] theorem decodeTx_request (r : Bool) :
    decodeTx (txKey false true r) pos len cmd n d = .txAccept cmd n d := by
  cases r <;> simp [decodeTx, txKey]

/-- TX_STALL's key: busy, the sink not ready. -/
@[simp] theorem decodeTx_stall : decodeTx (txKey true b false) pos len cmd n d = .txStall := by
  cases b <;> simp [decodeTx, txKey]

/-- The handshake's key: busy, the sink ready. -/
@[simp] theorem decodeTx_take :
    decodeTx (txKey true b true) pos len cmd n d = if pos.toNat < 4 + len.toNat then .txByte else .txLast := by
  cases b <;> simp [decodeTx, txKey]

end

@[simp] theorem stageOfCode_stageCode (st : Stage) : stageOfCode (stageCode st) = some st := by cases st <;> rfl

/-- No stage has a code above 5 (R26). -/
theorem stageCode_le (st : Stage) : (stageCode st).toNat ≤ 5 := by cases st <;> decide

end Sys2Proof
end

