-- ==== Sys2Proof/Laws/State.lean ====
section
/-! SUPPORT. One lemma for each field of the state and each update of it. -/

namespace Sys2Proof.Machine

variable (s : State)

@[simp] theorem State.setRx_rx (r : RxRegs) : (s.setRx r).rx = r := rfl
@[simp] theorem State.setRx_fo (r : RxRegs) : (s.setRx r).fo = s.fo := rfl
@[simp] theorem State.setRx_tx (r : RxRegs) : (s.setRx r).tx = s.tx := rfl
@[simp] theorem State.setRx_env (r : RxRegs) : (s.setRx r).env = s.env := rfl
@[simp] theorem State.setRx_program (r : RxRegs) : (s.setRx r).program = s.program := rfl
@[simp] theorem State.setRx_edge (r : RxRegs) : (s.setRx r).edge = s.edge := rfl
@[simp] theorem State.setRx_answer (r : RxRegs) : (s.setRx r).answer = s.answer := rfl

@[simp] theorem State.setFo_rx (f : FoRegs) : (s.setFo f).rx = s.rx := rfl
@[simp] theorem State.setFo_fo (f : FoRegs) : (s.setFo f).fo = f := rfl
@[simp] theorem State.setFo_tx (f : FoRegs) : (s.setFo f).tx = s.tx := rfl
@[simp] theorem State.setFo_env (f : FoRegs) : (s.setFo f).env = s.env := rfl
@[simp] theorem State.setFo_program (f : FoRegs) : (s.setFo f).program = s.program := rfl
@[simp] theorem State.setFo_edge (f : FoRegs) : (s.setFo f).edge = s.edge := rfl
@[simp] theorem State.setFo_answer (f : FoRegs) : (s.setFo f).answer = s.answer := rfl

@[simp] theorem State.setTx_rx (t : TxRegs) : (s.setTx t).rx = s.rx := rfl
@[simp] theorem State.setTx_fo (t : TxRegs) : (s.setTx t).fo = s.fo := rfl
@[simp] theorem State.setTx_tx (t : TxRegs) : (s.setTx t).tx = t := rfl
@[simp] theorem State.setTx_env (t : TxRegs) : (s.setTx t).env = s.env := rfl
@[simp] theorem State.setTx_program (t : TxRegs) : (s.setTx t).program = s.program := rfl
@[simp] theorem State.setTx_edge (t : TxRegs) : (s.setTx t).edge = s.edge := rfl
@[simp] theorem State.setTx_answer (t : TxRegs) : (s.setTx t).answer = s.answer := rfl

@[simp] theorem State.setEnv_rx (e : Env) : (s.setEnv e).rx = s.rx := rfl
@[simp] theorem State.setEnv_fo (e : Env) : (s.setEnv e).fo = s.fo := rfl
@[simp] theorem State.setEnv_tx (e : Env) : (s.setEnv e).tx = s.tx := rfl
@[simp] theorem State.setEnv_env (e : Env) : (s.setEnv e).env = e := rfl
@[simp] theorem State.setEnv_program (e : Env) : (s.setEnv e).program = s.program := rfl
@[simp] theorem State.setEnv_edge (e : Env) : (s.setEnv e).edge = s.edge := rfl
@[simp] theorem State.setEnv_answer (e : Env) : (s.setEnv e).answer = s.answer := rfl

@[simp] theorem State.setProgram_rx (l : List Line) : (s.setProgram l).rx = s.rx := rfl
@[simp] theorem State.setProgram_fo (l : List Line) : (s.setProgram l).fo = s.fo := rfl
@[simp] theorem State.setProgram_tx (l : List Line) : (s.setProgram l).tx = s.tx := rfl
@[simp] theorem State.setProgram_env (l : List Line) : (s.setProgram l).env = s.env := rfl
@[simp] theorem State.setProgram_program (l : List Line) : (s.setProgram l).program = l := rfl
@[simp] theorem State.setProgram_edge (l : List Line) : (s.setProgram l).edge = s.edge := rfl
@[simp] theorem State.setProgram_answer (l : List Line) : (s.setProgram l).answer = s.answer := rfl

@[simp] theorem State.setAnswer_rx (a : Answer) : (s.setAnswer a).rx = s.rx := rfl
@[simp] theorem State.setAnswer_fo (a : Answer) : (s.setAnswer a).fo = s.fo := rfl
@[simp] theorem State.setAnswer_tx (a : Answer) : (s.setAnswer a).tx = s.tx := rfl
@[simp] theorem State.setAnswer_env (a : Answer) : (s.setAnswer a).env = s.env := rfl
@[simp] theorem State.setAnswer_program (a : Answer) : (s.setAnswer a).program = s.program := rfl
@[simp] theorem State.setAnswer_edge (a : Answer) : (s.setAnswer a).edge = s.edge := rfl
@[simp] theorem State.setAnswer_answer (a : Answer) : (s.setAnswer a).answer = some a := rfl

@[simp] theorem State.tick_rx : (s.tick).rx = s.rx := rfl
@[simp] theorem State.tick_fo : (s.tick).fo = s.fo := rfl
@[simp] theorem State.tick_tx : (s.tick).tx = s.tx := rfl
@[simp] theorem State.tick_env : (s.tick).env = s.env := rfl
@[simp] theorem State.tick_program : (s.tick).program = s.program := rfl
@[simp] theorem State.tick_edge : (s.tick).edge = s.edge + 1 := rfl
@[simp] theorem State.tick_answer : (s.tick).answer = s.answer := rfl

@[simp] theorem rxSilent_rx (r : RxRegs) : (rxSilent r s).rx = r := rfl
@[simp] theorem rxSilent_fo (r : RxRegs) : (rxSilent r s).fo = foQuiet s.fo := rfl
@[simp] theorem rxSilent_tx (r : RxRegs) : (rxSilent r s).tx = s.tx := rfl
@[simp] theorem rxSilent_env (r : RxRegs) : (rxSilent r s).env = s.env := rfl
@[simp] theorem rxSilent_program (r : RxRegs) : (rxSilent r s).program = s.program := rfl
@[simp] theorem rxSilent_edge (r : RxRegs) : (rxSilent r s).edge = s.edge := rfl
@[simp] theorem rxSilent_answer (r : RxRegs) : (rxSilent r s).answer = s.answer := rfl

@[simp] theorem foQuiet_valid (f : FoRegs) : (foQuiet f).valid = false := rfl
@[simp] theorem foQuiet_cmd (f : FoRegs) : (foQuiet f).cmd = f.cmd := rfl
@[simp] theorem foQuiet_len (f : FoRegs) : (foQuiet f).len = f.len := rfl
@[simp] theorem foQuiet_data (f : FoRegs) : (foQuiet f).data = f.data := rfl

@[simp] theorem foEmit_valid (r : RxRegs) : (foEmit r).valid = true := rfl
@[simp] theorem foEmit_cmd (r : RxRegs) : (foEmit r).cmd = r.cmd := rfl
@[simp] theorem foEmit_len (r : RxRegs) : (foEmit r).len = r.len := rfl

@[simp] theorem rxStart_stage (r : RxRegs) : (rxStart r).stage = .cmd := rfl
@[simp] theorem rxStart_cmd (r : RxRegs) : (rxStart r).cmd = r.cmd := rfl
@[simp] theorem rxStart_len (r : RxRegs) : (rxStart r).len = r.len := rfl
@[simp] theorem rxStart_cnt (r : RxRegs) : (rxStart r).cnt = r.cnt := rfl
@[simp] theorem rxStart_data (r : RxRegs) : (rxStart r).data = r.data := rfl
@[simp] theorem rxStart_sum (r : RxRegs) : (rxStart r).sum = Config.STX := rfl

@[simp] theorem rxTakeCmd_stage (b : Byte) (r : RxRegs) : (rxTakeCmd b r).stage = .len := rfl
@[simp] theorem rxTakeCmd_cmd (b : Byte) (r : RxRegs) : (rxTakeCmd b r).cmd = b := rfl
@[simp] theorem rxTakeCmd_len (b : Byte) (r : RxRegs) : (rxTakeCmd b r).len = r.len := rfl
@[simp] theorem rxTakeCmd_cnt (b : Byte) (r : RxRegs) : (rxTakeCmd b r).cnt = r.cnt := rfl
@[simp] theorem rxTakeCmd_data (b : Byte) (r : RxRegs) : (rxTakeCmd b r).data = r.data := rfl
@[simp] theorem rxTakeCmd_sum (b : Byte) (r : RxRegs) : (rxTakeCmd b r).sum = r.sum + b := rfl

@[simp] theorem rxTakeLen_stage (b : Byte) (r : RxRegs) : (rxTakeLen b r).stage = if clampLen b = 0 then .etx else .data := rfl
@[simp] theorem rxTakeLen_cmd (b : Byte) (r : RxRegs) : (rxTakeLen b r).cmd = r.cmd := rfl
@[simp] theorem rxTakeLen_len (b : Byte) (r : RxRegs) : (rxTakeLen b r).len = clampLen b := rfl
@[simp] theorem rxTakeLen_cnt (b : Byte) (r : RxRegs) : (rxTakeLen b r).cnt = 0 := rfl
@[simp] theorem rxTakeLen_data (b : Byte) (r : RxRegs) : (rxTakeLen b r).data = r.data := rfl
@[simp] theorem rxTakeLen_sum (b : Byte) (r : RxRegs) : (rxTakeLen b r).sum = r.sum + b := rfl

@[simp] theorem rxTakeData_stage (b : Byte) (r : RxRegs) : (rxTakeData b r).stage = if r.cnt + 1 = r.len then .etx else .data := rfl
@[simp] theorem rxTakeData_cmd (b : Byte) (r : RxRegs) : (rxTakeData b r).cmd = r.cmd := rfl
@[simp] theorem rxTakeData_len (b : Byte) (r : RxRegs) : (rxTakeData b r).len = r.len := rfl
@[simp] theorem rxTakeData_cnt (b : Byte) (r : RxRegs) : (rxTakeData b r).cnt = r.cnt + 1 := rfl
@[simp] theorem rxTakeData_data (b : Byte) (r : RxRegs) : (rxTakeData b r).data = r.data.setIfInBounds r.cnt.toNat b := rfl
@[simp] theorem rxTakeData_sum (b : Byte) (r : RxRegs) : (rxTakeData b r).sum = r.sum + b := rfl

@[simp] theorem rxTakeEtx_stage (r : RxRegs) : (rxTakeEtx r).stage = .chk := rfl
@[simp] theorem rxTakeEtx_cmd (r : RxRegs) : (rxTakeEtx r).cmd = r.cmd := rfl
@[simp] theorem rxTakeEtx_len (r : RxRegs) : (rxTakeEtx r).len = r.len := rfl
@[simp] theorem rxTakeEtx_cnt (r : RxRegs) : (rxTakeEtx r).cnt = r.cnt := rfl
@[simp] theorem rxTakeEtx_data (r : RxRegs) : (rxTakeEtx r).data = r.data := rfl
@[simp] theorem rxTakeEtx_sum (r : RxRegs) : (rxTakeEtx r).sum = r.sum + Config.ETX := rfl

@[simp] theorem rxDrop_stage (r : RxRegs) : (rxDrop r).stage = .stx := rfl
@[simp] theorem rxDrop_cmd (r : RxRegs) : (rxDrop r).cmd = r.cmd := rfl
@[simp] theorem rxDrop_len (r : RxRegs) : (rxDrop r).len = r.len := rfl
@[simp] theorem rxDrop_cnt (r : RxRegs) : (rxDrop r).cnt = r.cnt := rfl
@[simp] theorem rxDrop_data (r : RxRegs) : (rxDrop r).data = r.data := rfl
@[simp] theorem rxDrop_sum (r : RxRegs) : (rxDrop r).sum = r.sum := rfl

@[simp] theorem txQuiet_busy (t : TxRegs) :
    (txQuiet t).busy = t.busy := rfl
@[simp] theorem txQuiet_pos (t : TxRegs) :
    (txQuiet t).pos = t.pos := rfl
@[simp] theorem txQuiet_cmd (t : TxRegs) :
    (txQuiet t).cmd = t.cmd := rfl
@[simp] theorem txQuiet_len (t : TxRegs) :
    (txQuiet t).len = t.len := rfl
@[simp] theorem txQuiet_data (t : TxRegs) :
    (txQuiet t).data = t.data := rfl
@[simp] theorem txQuiet_chk (t : TxRegs) :
    (txQuiet t).chk = t.chk := rfl
@[simp] theorem txQuiet_done (t : TxRegs) :
    (txQuiet t).done = false := rfl

@[simp] theorem txRelease_busy (t : TxRegs) :
    (txRelease t).busy = false := rfl
@[simp] theorem txRelease_pos (t : TxRegs) :
    (txRelease t).pos = t.pos := rfl
@[simp] theorem txRelease_cmd (t : TxRegs) :
    (txRelease t).cmd = t.cmd := rfl
@[simp] theorem txRelease_len (t : TxRegs) :
    (txRelease t).len = t.len := rfl
@[simp] theorem txRelease_data (t : TxRegs) :
    (txRelease t).data = t.data := rfl
@[simp] theorem txRelease_chk (t : TxRegs) :
    (txRelease t).chk = t.chk := rfl
@[simp] theorem txRelease_done (t : TxRegs) :
    (txRelease t).done = true := rfl

@[simp] theorem txAdvance_busy (t : TxRegs) :
    (txAdvance t).busy = t.busy := rfl
@[simp] theorem txAdvance_pos (t : TxRegs) :
    (txAdvance t).pos = t.pos + 1 := rfl
@[simp] theorem txAdvance_cmd (t : TxRegs) :
    (txAdvance t).cmd = t.cmd := rfl
@[simp] theorem txAdvance_len (t : TxRegs) :
    (txAdvance t).len = t.len := rfl
@[simp] theorem txAdvance_data (t : TxRegs) :
    (txAdvance t).data = t.data := rfl
@[simp] theorem txAdvance_chk (t : TxRegs) :
    (txAdvance t).chk = t.chk := rfl
@[simp] theorem txAdvance_done (t : TxRegs) :
    (txAdvance t).done = false := rfl

@[simp] theorem txLatch_busy (cmd n : Byte) (d : Bytes16) (t : TxRegs) :
    (txLatch cmd n d t).busy = true := rfl
@[simp] theorem txLatch_pos (cmd n : Byte) (d : Bytes16) (t : TxRegs) :
    (txLatch cmd n d t).pos = 0 := rfl
@[simp] theorem txLatch_cmd (cmd n : Byte) (d : Bytes16) (t : TxRegs) :
    (txLatch cmd n d t).cmd = cmd := rfl
@[simp] theorem txLatch_len (cmd n : Byte) (d : Bytes16) (t : TxRegs) :
    (txLatch cmd n d t).len = clampLen n := rfl
@[simp] theorem txLatch_data (cmd n : Byte) (d : Bytes16) (t : TxRegs) :
    (txLatch cmd n d t).data = d := rfl
@[simp] theorem txLatch_chk (cmd n : Byte) (d : Bytes16) (t : TxRegs) :
    (txLatch cmd n d t).chk = checksum (frameBody cmd (lenByte (clampLen n)) (takeBytes (clampLen n) d)) := rfl
@[simp] theorem txLatch_done (cmd n : Byte) (d : Bytes16) (t : TxRegs) :
    (txLatch cmd n d t).done = false := rfl

section
variable (c n : Byte) (d : BitVec 128)

@[simp] theorem present_rx : (present c n d s).rx = s.rx := rfl
@[simp] theorem present_fo : (present c n d s).fo = s.fo := rfl
@[simp] theorem present_tx : (present c n d s).tx = s.tx := rfl
@[simp] theorem present_env :
    (present c n d s).env = { s.env with reqValid := true, reqCmd := c, reqLen := n, reqData := d } := rfl
@[simp] theorem present_program : (present c n d s).program = s.program := rfl
@[simp] theorem present_edge : (present c n d s).edge = s.edge := rfl
@[simp] theorem present_answer : (present c n d s).answer = s.answer := rfl

end

end Sys2Proof.Machine
end

