-- ==== Sys2Proof/Laws/Ops.lean ====
section
/-! SUPPORT. What each shared operation does, said once. -/

namespace Sys2Proof.Machine

open Config

/-! ### The checksum unit -/

@[simp] theorem checksum_nil : checksum [] = 0 := rfl

@[simp] theorem checksum_cons (b : Byte) (s : List Byte) : checksum (b :: s) = b + checksum s := by
  apply BitVec.eq_of_toNat_eq
  simp [checksum, BitVec.toNat_add]

theorem checksum_toNat (s : List Byte) : (checksum s).toNat = byteSum s % 256 := by simp [checksum]

/-! ### Lengths and arrays -/

theorem clampLen_toNat (b : Byte) : (clampLen b).toNat = min b.toNat MAX_DATA := by
  simp [clampLen, MAX_DATA]

theorem clampLen_le (b : Byte) : (clampLen b).toNat ≤ MAX_DATA := by
  rw [clampLen_toNat]
  exact Nat.min_le_right _ _

@[simp] theorem lenByte_toNat (l : BitVec 5) : (lenByte l).toNat = l.toNat := by
  have h := l.isLt
  simp [lenByte]
  omega

theorem length_takeBytes (l : BitVec 5) (d : Bytes16) : (takeBytes l d).length = min l.toNat 16 := by
  simp [takeBytes]

/-- Storing at the count extends the bytes received so far by one. -/
theorem take_setIfInBounds (d : Bytes16) (n : Nat) (b : Byte) (h : n < 16) :
    (d.setIfInBounds n b).toList.take (n + 1) = d.toList.take n ++ [b] := by
  apply List.ext_getElem
  · simp; omega
  · intro i h1 h2
    simp at h1 h2
    by_cases hi : i = n
    · subst hi; simp
    · have : i < n := by omega
      have h16 : ¬ 16 ≤ i := by omega
      simp [List.getElem_append, this, Ne.symm hi, h16]

/-- The emitted array shows the held frame's data. -/
theorem takeBytes_foEmit (r : RxRegs) : takeBytes r.len (foEmit r).data = takeBytes r.len r.data := by
  apply List.ext_getElem
  · simp [takeBytes]
  · intro i h1 h2
    simp [takeBytes] at h1 h2
    simp [takeBytes, foEmit, h1]

/-- The emitted array is zero beyond the length (10_state.md R34). -/
theorem foEmit_zero (r : RxRegs) (i : Nat) (h : i < 16) (hl : r.len.toNat ≤ i) : (foEmit r).data[i] = 0 := by
  simp [foEmit, Nat.not_lt.mpr hl]

theorem getLsbD_packList (l : List Byte) (j : Nat) (h : j < 128) :
    (packList l).getLsbD j = (l.getD (j / 8) 0).getLsbD (j % 8) := by
  induction l generalizing j with
  | nil => simp [packList]
  | cons b rest ih =>
    by_cases hj : j < 8
    · have h0 : j / 8 = 0 := by omega
      have h1 : j % 8 = j := by omega
      simp [packList, h, hj, h0, h1]
    · have h0 : j / 8 = (j - 8) / 8 + 1 := by omega
      have h1 : j % 8 = (j - 8) % 8 := by omega
      have h2 : b.getLsbD j = false := BitVec.getLsbD_of_ge _ _ (by omega)
      rw [h0, h1, List.getD_cons_succ, ← ih (j - 8) (by omega)]
      simp [packList, h, hj, h2, BitVec.getLsbD_eq_getElem (show j - 8 < 128 by omega)]

/-- Byte `i` of a packed array is the array's entry `i` (30_encoding.md R90). -/
theorem extract_packBytes (d : Bytes16) (i : Nat) (h : i < 16) :
    (packBytes d).extractLsb' (8 * i) 8 = d[i] := by
  apply BitVec.eq_of_getLsbD_eq
  intro j hj
  have h1 : (8 * i + j) / 8 = i := by omega
  have h2 : (8 * i + j) % 8 = j := by omega
  rw [BitVec.getLsbD_extractLsb', packBytes, getLsbD_packList _ _ (by omega), h1, h2]
  simp [hj, h]

theorem unpack_packBytes (d : Bytes16) : unpackBytes (packBytes d) = d := by
  apply Vector.ext
  intro i h
  simp [unpackBytes, extract_packBytes d i h]

theorem bytes16OfList_toList (d : Bytes16) : bytes16OfList d.toList = d := by
  apply Vector.ext
  intro i h
  simp [bytes16OfList]

/-- The first bytes of a list that fits are in the array made of it. -/
theorem takeBytes_bytes16OfList (l : List Byte) (n : BitVec 5) (h : n.toNat ≤ l.length) (h16 : n.toNat ≤ 16) :
    takeBytes n (bytes16OfList l) = l.take n.toNat := by
  apply List.ext_getElem
  · simp [takeBytes]; omega
  · intro i h1 h2
    simp [takeBytes] at h1 h2
    simp [takeBytes, bytes16OfList, h2.2]

/-! ### The parser over byte sequences -/

@[simp] theorem rxFeed_nil (r : RxRegs) : rxFeed r [] = (r, []) := rfl

theorem rxFeed_cons (r : RxRegs) (b : Byte) (bs : List Byte) :
    rxFeed r (b :: bs) = ((rxFeed (rxStep r b).1 bs).1, (rxStep r b).2.toList ++ (rxFeed (rxStep r b).1 bs).2) := rfl

theorem rxFeed_append (r : RxRegs) (xs ys : List Byte) :
    rxFeed r (xs ++ ys) = ((rxFeed (rxFeed r xs).1 ys).1, (rxFeed r xs).2 ++ (rxFeed (rxFeed r xs).1 ys).2) := by
  induction xs generalizing r with
  | nil => simp
  | cons b bs ih => simp [rxFeed_cons, ih, List.append_assoc]

section
variable (r : RxRegs) (b : Byte)

theorem rxStep_stx (h : r.stage = .stx) : rxStep r b = (if b = STX then rxStart r else r, none) := by
  simp [rxStep, h]

theorem rxStep_cmd (h : r.stage = .cmd) : rxStep r b = (rxTakeCmd b r, none) := by simp [rxStep, h]

theorem rxStep_len (h : r.stage = .len) : rxStep r b = (rxTakeLen b r, none) := by simp [rxStep, h]

theorem rxStep_data (h : r.stage = .data) : rxStep r b = (rxTakeData b r, none) := by simp [rxStep, h]

theorem rxStep_etx (h : r.stage = .etx) :
    rxStep r b = (if b = ETX then rxTakeEtx r else rxDrop r, none) := by simp [rxStep, h]

theorem rxStep_chk (h : r.stage = .chk) :
    rxStep r b = (rxDrop r, if b = r.sum then some (heldFrame r) else none) := by simp [rxStep, h]

end

end Sys2Proof.Machine
end

