-- ==== Sys2Proof/Laws/Edge.lean ====
section
/-! SUPPORT. What an edge and a step can do, said once: an edge always answers the next state, and its two sides are the
effects of the operations the keys select. -/

namespace Sys2Proof.Machine

open Config

/-- The RX side after an edge without reset: the parser registers and the frame outputs. -/
def rxSide (p : PortIn) (s : State) : RxRegs × FoRegs :=
  if p.rxValid then
    match s.rx.stage with
    | .stx => (if p.rxByte = STX then rxStart s.rx else s.rx, foQuiet s.fo)
    | .cmd => (rxTakeCmd p.rxByte s.rx, foQuiet s.fo)
    | .len => (rxTakeLen p.rxByte s.rx, foQuiet s.fo)
    | .data => (rxTakeData p.rxByte s.rx, foQuiet s.fo)
    | .etx => (if p.rxByte = ETX then rxTakeEtx s.rx else rxDrop s.rx, foQuiet s.fo)
    | .chk => (rxDrop s.rx, if p.rxByte = s.rx.sum then foEmit s.rx else foQuiet s.fo)
  else (s.rx, foQuiet s.fo)

/-- The TX side after an edge without reset. -/
def txSide (p : PortIn) (s : State) : TxRegs :=
  if s.tx.busy then
    if p.outReady then if s.tx.pos.toNat < 4 + s.tx.len.toNat then txAdvance s.tx else txRelease s.tx
    else txQuiet s.tx
  else if p.reqValid then txLatch p.reqCmd p.reqLen (unpackBytes p.reqData) s.tx
  else txQuiet s.tx

/-- The whole state after an edge. -/
def edgeResult (p : PortIn) (s : State) : State :=
  if p.rst then ((s.tick.setRx RxRegs.reset).setFo FoRegs.reset).setTx TxRegs.reset
  else ((s.tick.setRx (rxSide p s).1).setFo (rxSide p s).2).setTx (txSide p s)

/-- Executing the RX operation the key selects. -/
theorem exec_selectRx (p : PortIn) (s : State) :
    ∃ i, selectRx p s = some i ∧ exec i s.tick = .next ((s.tick.setRx (rxSide p s).1).setFo (rxSide p s).2) := by
  rcases p with ⟨rst, rxValid, b, rv, rc, rl, rd, ordy⟩
  cases rxValid with
  | false => exact ⟨.rxIdle, by simp [selectRx], by simp [exec, execRxIdle, rxSide, rxSilent]⟩
  | true =>
    cases hs : s.rx.stage <;> simp only [selectRx, rxSide, hs, stageCode, if_true]
    · by_cases h : b = STX
      · exact ⟨.s0Stx, by simp [h], by simp [exec, execS0Stx, rxSilent, h]⟩
      · exact ⟨.s0Skip b, by simp [h], by simp [exec, execS0Skip, rxSilent, h]⟩
    · exact ⟨.s1Cmd b, by simp, by simp [exec, execS1Cmd, rxSilent]⟩
    · exact ⟨.s2Len b, by simp, by simp [exec, execS2Len, rxSilent]⟩
    · exact ⟨.s3Data b, by simp, by simp [exec, execS3Data, rxSilent]⟩
    · by_cases h : b = ETX
      · exact ⟨.s4Etx, by simp [h], by simp [exec, execS4Etx, rxSilent, h]⟩
      · exact ⟨.s4Abort b, by simp [h], by simp [exec, execS4Abort, rxSilent, h]⟩
    · by_cases h : b = s.rx.sum
      · exact ⟨.s5Accept b, by simp [h], by simp [exec, execS5Accept, h]⟩
      · exact ⟨.s5Reject b, by simp [h], by simp [exec, execS5Reject, rxSilent, h]⟩

/-- Executing the TX operation the key selects, after the RX operation. -/
theorem exec_selectTx (p : PortIn) (s t : State) (h : t.tx = s.tx) :
    exec (selectTx p s) t = .next (t.setTx (txSide p s)) := by
  rcases p with ⟨rst, rxv, b, rv, rc, rl, rd, ordy⟩
  cases hb : s.tx.busy with
  | false =>
    cases rv with
    | false => simp [selectTx, txSide, hb, exec, execTxIdle, h]
    | true => simp [selectTx, txSide, hb, exec, execTxAccept, h]
  | true =>
    cases ordy with
    | false => simp [selectTx, txSide, hb, exec, execTxStall, h]
    | true =>
      by_cases hp : s.tx.pos.toNat < 4 + s.tx.len.toNat
      · simp [selectTx, txSide, hb, exec, execTxByte, h, hp]
      · simp [selectTx, txSide, hb, exec, execTxLast, h, hp]

/-- An edge answers the next state, and this one. -/
theorem runEdge_eq (p : PortIn) (s : State) : runEdge p s = .next (edgeResult p s) := by
  unfold runEdge edgeResult
  split
  · rfl
  · obtain ⟨i, hi, hx⟩ := exec_selectRx p s
    simp only [hi, hx]
    exact exec_selectTx p s _ rfl

theorem edgeNext_eq (p : PortIn) (s : State) : edgeNext p s = edgeResult p s := by simp [edgeNext, runEdge_eq]

section
variable (p : PortIn) (s : State)

@[simp] theorem edgeResult_env : (edgeResult p s).env = s.env := by unfold edgeResult; split <;> rfl

@[simp] theorem edgeResult_program : (edgeResult p s).program = s.program := by unfold edgeResult; split <;> rfl

@[simp] theorem edgeResult_edge : (edgeResult p s).edge = s.edge + 1 := by unfold edgeResult; split <;> rfl

@[simp] theorem edgeResult_answer : (edgeResult p s).answer = s.answer := by unfold edgeResult; split <;> rfl

variable (h : p.rst = false)
include h

theorem edgeResult_rx : (edgeResult p s).rx = (rxSide p s).1 := by simp [edgeResult, h]

theorem edgeResult_fo : (edgeResult p s).fo = (rxSide p s).2 := by simp [edgeResult, h]

theorem edgeResult_tx : (edgeResult p s).tx = txSide p s := by simp [edgeResult, h]

end

/-- The registers of a reset edge. -/
theorem edgeResult_rst (p : PortIn) (s : State) (h : p.rst = true) :
    (edgeResult p s).rx = RxRegs.reset ∧ (edgeResult p s).fo = FoRegs.reset ∧ (edgeResult p s).tx = TxRegs.reset := by
  simp [edgeResult, h]

/-- What a step can do: count no edge and keep every register, or take the edge of one cycle from a state with the same
registers. -/
theorem step_cases (s t : State) (h : step s = .next t) :
    (t.rx = s.rx ∧ t.fo = s.fo ∧ t.tx = s.tx ∧ t.edge = s.edge) ∨
      ∃ p s', s'.rx = s.rx ∧ s'.fo = s.fo ∧ s'.tx = s.tx ∧ s'.edge = s.edge ∧ t = edgeResult p s' := by
  have held : ∀ (p : PortIn) (u : State), u.rx = s.rx → u.fo = s.fo → u.tx = s.tx → u.edge = s.edge →
      heldEdge p u = .next t →
      ∃ p s', s'.rx = s.rx ∧ s'.fo = s.fo ∧ s'.tx = s.tx ∧ s'.edge = s.edge ∧ t = edgeResult p s' := by
    intro p u h1 h2 h3 h4 hu
    rw [heldEdge, runEdge_eq] at hu
    refine ⟨p, endAccepted p u, ?_, ?_, ?_, ?_, by injection hu with hu; exact hu.symm⟩ <;>
      (unfold endAccepted; split <;> assumption)
  unfold step runNext at h
  split at h
  · refine .inr (held _ _ ?_ ?_ ?_ ?_ h) <;> rfl
  · refine .inr (held _ _ ?_ ?_ ?_ ?_ h) <;> rfl
  · injection h with h; subst h; exact .inl ⟨rfl, rfl, rfl, rfl⟩
  · refine .inr (held _ _ ?_ ?_ ?_ ?_ h) <;> rfl
  · injection h with h; subst h; exact .inl ⟨rfl, rfl, rfl, rfl⟩
  · refine .inr (held _ _ ?_ ?_ ?_ ?_ h) <;> rfl
  · injection h with h; subst h; exact .inl ⟨rfl, rfl, rfl, rfl⟩
  · simp only [exec, execPing] at h; injection h with h; subst h; exact .inl ⟨rfl, rfl, rfl, rfl⟩
  · injection h with h; subst h; exact .inl ⟨rfl, rfl, rfl, rfl⟩
  · injection h with h; subst h; exact .inl ⟨rfl, rfl, rfl, rfl⟩
  · injection h with h; subst h; exact .inl ⟨rfl, rfl, rfl, rfl⟩
  · rw [runEdge_eq] at h
    injection h with h
    refine .inr ⟨_, _, ?_, ?_, ?_, ?_, h.symm⟩ <;> rfl

end Sys2Proof.Machine
end

