-- ==== Sys2Proof/Laws/PerInstr.lean ====
section
/-! SUPPORT. Families of lemmas about every operation as syntax: `Format`, the format byte its record begins with. -/

namespace Sys2Proof.Laws.Format

/-- The number of the format opcode_table.json gives the row: rx_step, tx_ctl, reset, function, pseudo, frame_cmd. -/
def number : Instr → Nat
  | .rxIdle | .s0Stx | .s0Skip _ | .s1Cmd _ | .s2Len _ | .s3Data _ | .s4Etx | .s4Abort _ | .s5Accept _
  | .s5Reject _ => 0
  | .txIdle | .txAccept _ _ _ | .txStall | .txByte | .txLast => 1
  | .reset => 2
  | .checksum _ | .validate _ | .txBuild _ _ => 3
  | .ping => 4
  | .cmdPing | .cmdKeyEvent | .cmdOther _ => 5

/-- The record of `i` begins with the number of its format. -/
def Statement (i : Instr) : Prop := ∃ body, encode i = BitVec.ofNat 8 (number i) :: body

theorem rxIdle : Statement .rxIdle := ⟨_, rfl⟩
theorem s0Stx : Statement .s0Stx := ⟨_, rfl⟩
theorem s0Skip (b : Byte) : Statement (.s0Skip b) := ⟨_, rfl⟩
theorem s1Cmd (b : Byte) : Statement (.s1Cmd b) := ⟨_, rfl⟩
theorem s2Len (b : Byte) : Statement (.s2Len b) := ⟨_, rfl⟩
theorem s3Data (b : Byte) : Statement (.s3Data b) := ⟨_, rfl⟩
theorem s4Etx : Statement .s4Etx := ⟨_, rfl⟩
theorem s4Abort (b : Byte) : Statement (.s4Abort b) := ⟨_, rfl⟩
theorem s5Accept (b : Byte) : Statement (.s5Accept b) := ⟨_, rfl⟩
theorem s5Reject (b : Byte) : Statement (.s5Reject b) := ⟨_, rfl⟩
theorem txIdle : Statement .txIdle := ⟨_, rfl⟩
theorem txAccept (cmd len : Byte) (data : Bytes16) : Statement (.txAccept cmd len data) := ⟨_, rfl⟩
theorem txStall : Statement .txStall := ⟨_, rfl⟩
theorem txByte : Statement .txByte := ⟨_, rfl⟩
theorem txLast : Statement .txLast := ⟨_, rfl⟩
theorem reset : Statement .reset := ⟨_, rfl⟩
theorem checksum (s : List Byte) : Statement (.checksum s) := ⟨_, rfl⟩
theorem validate (b : Byte) : Statement (.validate b) := ⟨_, rfl⟩
theorem txBuild (cmd : Byte) (payload : List Byte) : Statement (.txBuild cmd payload) := ⟨_, rfl⟩
theorem ping : Statement .ping := ⟨_, rfl⟩
theorem cmdPing : Statement .cmdPing := ⟨_, rfl⟩
theorem cmdKeyEvent : Statement .cmdKeyEvent := ⟨_, rfl⟩
theorem cmdOther (b : Byte) : Statement (.cmdOther b) := ⟨_, rfl⟩

end Sys2Proof.Laws.Format
end

