-- ==== Sys2Proof/Laws/Run.lean ====
section
/-! SUPPORT. Lemmas about runs: the parser fed the parts of a frame, one edge of an observation, the offered byte, and the
records of RX keys. -/

namespace Sys2Proof

/-- The record of an RX key decodes to what the key selects. -/
theorem decode_encodeRx (st : BitVec 3) (b sum : Byte) :
    decode (encodeRx st b sum) =
      match decodeRx true (rxKey st b) sum with
      | some i => .ok i
      | none => .error .stageCode6Or7 := by
  have h1 : (st.zeroExtend 8).toNat < 16 := by
    have := st.isLt
    simp
    omega
  have h2 : (st.zeroExtend 8 : Byte).extractLsb' 0 3 = st := by
    apply BitVec.eq_of_getLsbD_eq
    intro i hi
    simp [hi]
    intro
    omega
  have h3 : (st.zeroExtend 8 : Byte).getLsbD 3 = false := by simp
  have h : decode (encodeRx st b sum) = decodeRxRecord [b, st.zeroExtend 8, sum] := rfl
  rw [h, decodeRxRecord, if_neg (by omega), h2, h3]
  rfl

end Sys2Proof

namespace Sys2Proof.Machine

open Config

/-! ### One edge -/

/-- The parser's side of an edge without reset is one `RxStep`, or nothing. -/
theorem rxSide_eq_rxStep (p : PortIn) (s : State) :
    (rxSide p s).1 = if p.rxValid then (rxStep s.rx p.rxByte).1 else s.rx := by
  unfold rxSide rxStep
  split
  · split <;> simp_all
  · rfl

/-- When the TX operation is TX_LAST. -/
theorem selectTx_eq_txLast (p : PortIn) (s : State) :
    selectTx p s = .txLast ↔ s.tx.busy = true ∧ p.outReady = true ∧ ¬ s.tx.pos.toNat < 4 + s.tx.len.toNat := by
  cases hb : s.tx.busy <;> cases hr : p.reqValid <;> cases ho : p.outReady <;> simp [selectTx, hb, hr, ho]

theorem framesOf_cons (p : PortIn) (ps : List PortIn) (s : State) :
    framesOf (p :: ps) s = (emittedFrame (edgeNext p s)).toList ++ framesOf ps (edgeNext p s) := by
  simp [framesOf, observe, Function.comp_def]

theorem takenOf_cons (p : PortIn) (ps : List PortIn) (s : State) :
    takenOf (p :: ps) s = (takenByte p s).toList ++ takenOf ps (edgeNext p s) := by
  simp [takenOf, observe, Function.comp_def]

/-! ### The offered byte -/

/-- Up to `4 + tx_len` no free value is read (R154). -/
theorem frameByte_free (t : TxRegs) (k : Nat) (h : k ≤ 4 + t.len.toNat) (hl : t.len.toNat ≤ 16) (a b : Byte) :
    frameByte t k a = frameByte t k b := by
  unfold frameByte
  split_ifs <;> try rfl
  · rw [List.getD_eq_getElem _ _ (by simp; omega), List.getD_eq_getElem _ _ (by simp; omega)]
  · omega

/-! ### The parser fed the parts of a frame -/

theorem clampLen_eq_zero (b : Byte) : clampLen b = 0 ↔ b = 0 := by
  constructor
  · intro h
    have h' := congrArg BitVec.toNat h
    rw [clampLen_toNat] at h'
    apply BitVec.eq_of_toNat_eq
    simp [MAX_DATA] at h' ⊢
    omega
  · rintro rfl
    rfl

/-- Noise in stage 0 changes nothing (41_rx_parser.md R122). -/
theorem rxFeed_skip (r : RxRegs) (hs : r.stage = .stx) (xs : List Byte) (h : ∀ x ∈ xs, ¬ x = STX) :
    rxFeed r xs = (r, []) := by
  induction xs with
  | nil => rfl
  | cons x xs ih =>
    rw [rxFeed_cons, rxStep_stx _ _ hs, if_neg (h x (by simp)), ih fun y hy => h y (by simp [hy])]
    rfl

/-- Data bytes that fit, fed in stage 3 (41_rx_parser.md R126). -/
theorem rxFeed_data (r : RxRegs) (d : List Byte) (hs : r.stage = .data) (hl : r.len.toNat ≤ 16)
    (hd : r.cnt.toNat + d.length ≤ r.len.toNat) (hne : r.cnt.toNat < r.len.toNat) :
    (rxFeed r d).2 = [] ∧ (rxFeed r d).1.cmd = r.cmd ∧ (rxFeed r d).1.len = r.len ∧
      (rxFeed r d).1.cnt.toNat = r.cnt.toNat + d.length ∧ (rxFeed r d).1.sum = r.sum + checksum d ∧
      (rxFeed r d).1.stage = (if r.cnt.toNat + d.length = r.len.toNat then .etx else .data) ∧
      (rxFeed r d).1.data.toList.take (r.cnt.toNat + d.length) = r.data.toList.take r.cnt.toNat ++ d := by
  induction d generalizing r with
  | nil => simp [hs]; omega
  | cons b d ih =>
    rw [rxFeed_cons, rxStep_data _ _ hs]
    simp only [List.length_cons] at hd
    have hc : (r.cnt + 1).toNat = r.cnt.toNat + 1 := by simp [BitVec.toNat_add]; omega
    have he : r.cnt + 1 = r.len ↔ r.cnt.toNat + 1 = r.len.toNat := by
      rw [← hc]; exact ⟨fun h => by rw [h], fun h => BitVec.eq_of_toNat_eq h⟩
    by_cases hlast : r.cnt.toNat + 1 = r.len.toNat
    · have hnil : d = [] := by apply List.eq_nil_of_length_eq_zero; omega
      subst hnil
      have h7 := take_setIfInBounds r.data r.cnt.toNat b (by omega)
      refine ⟨rfl, rfl, rfl, hc, by simp, ?_, by simpa using h7⟩
      simp only [rxFeed_nil, rxTakeData_stage, if_pos (he.2 hlast)]; simp [hlast]
    · have hn : ¬ r.cnt + 1#5 = r.len := fun h => hlast (he.1 h)
      obtain ⟨a1, a2, a3, a4, a5, a6, a7⟩ := ih (rxTakeData b r) (by simp [hn]) (by simpa using hl)
        (by simp only [rxTakeData_cnt, hc, rxTakeData_len]; omega)
        (by simp only [rxTakeData_cnt, hc, rxTakeData_len]; omega)
      simp only [rxTakeData_cnt, hc, rxTakeData_data, rxTakeData_len, rxTakeData_sum, rxTakeData_cmd]
        at a1 a2 a3 a4 a5 a6 a7
      have e2 : r.cnt.toNat + (d.length + 1) = r.cnt.toNat + 1 + d.length := by omega
      refine ⟨by simpa using a1, a2, a3, ?_, ?_, ?_, ?_⟩
      · simp only [List.length_cons, e2]; exact a4
      · simp only [a5, checksum_cons, BitVec.add_assoc]
      · simp only [List.length_cons, e2]; exact a6
      · simp only [List.length_cons, e2]; rw [a7, take_setIfInBounds _ _ _ (by omega)]; simp

/-- STX, a command and a length byte, fed in stage 0 (41_rx_parser.md R123, R124, R125). -/
theorem rxFeed_header (c n : Byte) (r : RxRegs) (hs : r.stage = .stx) :
    rxFeed r [STX, c, n] = (rxTakeLen n (rxTakeCmd c (rxStart r)), []) := by
  rw [rxFeed_cons, rxStep_stx _ _ hs]
  simp only [if_true, rxFeed_cons]
  rw [rxStep_cmd (rxStart r) c (by simp)]
  rw [rxStep_len (rxTakeCmd c (rxStart r)) n (by simp)]
  simp

end Sys2Proof.Machine
end

