-- ==== Sys2Proof/Tests/Slice0.lean ====
section
/-! SUPPORT. Tests of the model, each about at most one step, and for every statement with hypotheses a state and operands
that meet them.  The expected values are those of the operation rules' own examples (41_rx_parser.md, 42_tx_framer.md), of
the vectors of 95_test_vectors.md (named V-..., P...), or counted by hand from the rule named. -/

namespace Sys2Proof.Tests

open Sys2Proof Sys2Proof.Machine Sys2Proof.Config

/-! ### Helpers -/

/-- The operation answers a next state, and that state passes the check. -/
def nextIs (o : Host.Outcome State Fault Refusal) (check : State → Bool) : Bool :=
  match o with
  | .next t => check t
  | .fault _ => false
  | .refused _ => false

/-- The bytes decode to the operation. -/
def decodesTo (bytes : List Byte) (i : Instr) : Bool :=
  match decode bytes with
  | .ok j => decide (j = i)
  | .error _ => false

/-- The bytes are rejected for the reason. -/
def rejectedFor (bytes : List Byte) (r : DecodeReject) : Bool :=
  match decode bytes with
  | .ok _ => false
  | .error q => decide (q = r)

/-- The reset state with other parser registers. -/
def withRx (stage : Stage) (cmd : Byte) (len cnt : BitVec 5) (data : List Byte) (sum : Byte) : State :=
  State.reset.setRx { stage := stage, cmd := cmd, len := len, cnt := cnt, data := bytes16OfList data, sum := sum }

/-- The reset state with an accepted request in flight at position `pos`. -/
def sending (cmd len : Byte) (data : List Byte) (pos : BitVec 5) : State :=
  State.reset.setTx { txLatch cmd len (bytes16OfList data) TxRegs.reset with pos := pos }

/-- A cycle that presents nothing, the sink ready. -/
def idleCycle : PortIn := { quietPorts with outReady := true }

/-- A cycle that presents a received byte, the sink ready. -/
def byteCycle (b : Byte) : PortIn := { idleCycle with rxValid := true, rxByte := b }

/-- A cycle that presents a request, the sink ready. -/
def requestCycle (cmd len : Byte) (data : List Byte) : PortIn :=
  { idleCycle with reqValid := true, reqCmd := cmd, reqLen := len, reqData := portData data }

/-- A cycle with `rst = 1` that presents a byte too. -/
def resetCycle : PortIn := { byteCycle 0x02 with rst := true }

/-- The reset state with one line to run. -/
def running (l : Line) : State := State.reset.setProgram [l]

/-! ### Well-formedness -/

theorem test_skip_of_stx_is_ill_formed : (Instr.s0Skip 0x02).wellFormed = false := by decide
theorem test_abort_at_etx_is_ill_formed : (Instr.s4Abort 0x03).wellFormed = false := by decide
theorem test_ping_command_is_no_other_command : (Instr.cmdOther 0x00).wellFormed = false := by decide
theorem test_key_event_is_no_other_command : (Instr.cmdOther 0xFE).wellFormed = false := by decide
theorem test_skip_of_etx_is_well_formed : (Instr.s0Skip 0x03).wellFormed = true := by decide

/-! ### Decoding: keys of 30_encoding.md R91 written out (low byte of K, high bits of K, rx_sum; T, tx_pos, tx_len) -/

theorem test_decode_rx_idle : decodesTo [0, 0b00000000, 0b00001000, 0] .rxIdle = true := by decide
theorem test_decode_s0_stx : decodesTo [0, 0b00000010, 0b00000000, 0] .s0Stx = true := by decide
theorem test_decode_s0_skip : decodesTo [0, 0b00000011, 0b00000000, 0] (.s0Skip 0x03) = true := by decide
theorem test_decode_s1_cmd : decodesTo [0, 0b00000010, 0b00000001, 0] (.s1Cmd 0x02) = true := by decide
theorem test_decode_s2_len : decodesTo [0, 0b00010001, 0b00000010, 0] (.s2Len 0x11) = true := by decide
theorem test_decode_s3_data : decodesTo [0, 0b00000011, 0b00000011, 0] (.s3Data 0x03) = true := by decide
theorem test_decode_s4_etx : decodesTo [0, 0b00000011, 0b00000100, 0] .s4Etx = true := by decide
theorem test_decode_s4_abort : decodesTo [0, 0b00000010, 0b00000100, 0] (.s4Abort 0x02) = true := by decide
theorem test_decode_s5_accept : decodesTo [0, 0b00000101, 0b00000101, 0x05] (.s5Accept 0x05) = true := by decide
theorem test_decode_s5_reject : decodesTo [0, 0b00000010, 0b00000101, 0x05] (.s5Reject 0x02) = true := by decide

theorem test_decode_tx_idle :
    decodesTo ([1, 0b001, 0, 0, 0, 0] ++ List.replicate 16 0) .txIdle = true := by decide
theorem test_decode_tx_accept :
    decodesTo ([1, 0b011, 0, 0, 0xFE, 2, 0x03, 0x01] ++ List.replicate 14 0)
      (.txAccept 0xFE 2 (bytes16OfList [0x03, 0x01])) = true := by decide
theorem test_decode_tx_stall :
    decodesTo ([1, 0b110, 0, 0, 0, 0] ++ List.replicate 16 0) .txStall = true := by decide
theorem test_decode_tx_byte :
    decodesTo ([1, 0b111, 5, 2, 0, 0] ++ List.replicate 16 0) .txByte = true := by decide
theorem test_decode_tx_last :
    decodesTo ([1, 0b101, 6, 2, 0, 0] ++ List.replicate 16 0) .txLast = true := by decide

theorem test_decode_reset : decodesTo [2, 1] .reset = true := by decide
theorem test_decode_checksum : decodesTo [3, 0, 0x80, 0x80] (.checksum [0x80, 0x80]) = true := by decide
theorem test_decode_validate : decodesTo [3, 1, 0x05] (.validate 0x05) = true := by decide
theorem test_decode_tx_build : decodesTo [3, 2, 0xFE, 0x03, 0x01] (.txBuild 0xFE [0x03, 0x01]) = true := by decide
theorem test_decode_ping : decodesTo [4, 0x00, 0] .ping = true := by decide
theorem test_decode_cmd_ping : decodesTo [5, 0x00] .cmdPing = true := by decide
theorem test_decode_cmd_key_event : decodesTo [5, 0xFE] .cmdKeyEvent = true := by decide
theorem test_decode_cmd_other : decodesTo [5, 0xFF] (.cmdOther 0xFF) = true := by decide

theorem test_reject_stage_code_six : rejectedFor [0, 0x00, 0b110, 0] .stageCode6Or7 = true := by decide
theorem test_reject_stage_code_seven : rejectedFor [0, 0xFF, 0b111, 0] .stageCode6Or7 = true := by decide
theorem test_reject_bits_above_the_key : rejectedFor [0, 0x00, 0b00010000, 0] .strayBits = true := by decide
theorem test_reject_rst_zero : rejectedFor [2, 0] .rstIsZero = true := by decide
theorem test_reject_unknown_function : rejectedFor [3, 3] (.unknownFunction 3) = true := by decide
theorem test_reject_pseudo_with_data : rejectedFor [4, 0x00, 1] .notPing = true := by decide
theorem test_reject_unknown_format : rejectedFor [6] (.unknownFormat 6) = true := by decide
theorem test_reject_no_bytes : rejectedFor [] .noBytes = true := by decide

theorem test_table_word_of_stx_key : decodeTableWord 16 0x002 = some .s0Stx := by decide
theorem test_table_word_of_stage_six : decodeTableWord 16 0x600 = none := by decide

/-! ### The RX operations -/

/-- R121's example. -/
theorem test_rx_idle_keeps_the_candidate :
    nextIs (exec .rxIdle (withRx .data 0xFE 2 1 [0x03] 0x05))
      (fun t => t.rx.stage == .data && t.rx.cnt == 1 && !t.fo.valid) = true := by decide

/-- R122's example. -/
theorem test_s0_skip_stays_in_stage_zero :
    nextIs (exec (.s0Skip 0x03) State.reset) (fun t => t.rx == RxRegs.reset && !t.fo.valid) = true := by decide

/-- R123's example, from a state with an old sum. -/
theorem test_s0_stx_starts_the_sum :
    nextIs (exec .s0Stx (withRx .stx 0 0 0 [] 0x77)) (fun t => t.rx.stage == .cmd && t.rx.sum == 0x02) = true := by decide

/-- R124's example: the sum wraps. -/
theorem test_s1_cmd_wraps_the_sum :
    nextIs (exec (.s1Cmd 0xFE) (withRx .cmd 0 0 0 [] 0x02))
      (fun t => t.rx.stage == .len && t.rx.cmd == 0xFE && t.rx.sum == 0x00) = true := by decide

/-- R125's second example: the clamped length is kept, the raw byte summed. -/
theorem test_s2_len_clamps_seventeen :
    nextIs (exec (.s2Len 0x11) (withRx .len 0xFE 0 7 [] 0x00))
      (fun t => t.rx.stage == .data && t.rx.len == 16 && t.rx.cnt == 0 && t.rx.sum == 0x11) = true := by decide

/-- R125's corner: length 0 goes straight to stage 4. -/
theorem test_s2_len_zero_waits_for_etx :
    nextIs (exec (.s2Len 0x00) (withRx .len 0x00 0 0 [] 0x02))
      (fun t => t.rx.stage == .etx && t.rx.len == 0 && t.rx.sum == 0x02) = true := by decide

/-- R126's example, first byte. -/
theorem test_s3_data_stores_the_first_byte :
    nextIs (exec (.s3Data 0x03) (withRx .data 0xFE 2 0 [] 0x02))
      (fun t => t.rx.stage == .data && t.rx.data[0] == 0x03 && t.rx.cnt == 1 && t.rx.sum == 0x05) = true := by decide

/-- R126: the last index, 15, ends the data. -/
theorem test_s3_data_fills_the_last_entry :
    nextIs (exec (.s3Data 0xAA) (withRx .data 0 16 15 [] 0xFF))
      (fun t => t.rx.stage == .etx && t.rx.data[15] == 0xAA && t.rx.cnt == 16 && t.rx.sum == 0xA9) = true := by decide

/-- R127's example. -/
theorem test_s4_etx_is_summed :
    nextIs (exec .s4Etx (withRx .etx 0xFE 2 2 [0x03, 0x01] 0x06))
      (fun t => t.rx.stage == .chk && t.rx.sum == 0x09) = true := by decide

/-- R128's example: the registers keep their values. -/
theorem test_s4_abort_keeps_the_registers :
    nextIs (exec (.s4Abort 0x02) (withRx .etx 0x00 0 0 [] 0x02))
      (fun t => t.rx == (withRx .stx 0x00 0 0 [] 0x02).rx && !t.fo.valid) = true := by decide

/-- R129's example; beyond the length the output is zero though the buffer is not (R34). -/
theorem test_s5_accept_emits_without_stale_data :
    nextIs (exec (.s5Accept 0x09) (withRx .chk 0xFE 2 2 [0x03, 0x01, 0x55] 0x09))
      (fun t => t.fo.valid && t.fo.cmd == 0xFE && t.fo.len == 2 && t.fo.data == bytes16OfList [0x03, 0x01]
        && t.rx.stage == .stx) = true := by decide

/-- R33 and R90: `fo_data` after V-RX2 is 0x0103. -/
theorem test_fo_data_port_after_v_rx2 :
    nextIs (exec (.s5Accept 0x09) (withRx .chk 0xFE 2 2 [0x03, 0x01] 0x09))
      (fun t => packBytes t.fo.data == 0x0103) = true := by decide

/-- R130: the pulse ends and the last frame is held. -/
theorem test_s5_reject_holds_the_last_frame :
    nextIs (exec (.s5Reject 0x04)
        ((withRx .chk 0x00 0 0 [] 0x05).setFo { valid := true, cmd := 0xFE, len := 2, data := bytes16OfList [0x03, 0x01] }))
      (fun t => !t.fo.valid && t.fo.cmd == 0xFE && t.fo.len == 2 && t.rx.stage == .stx) = true := by decide

/-! ### The TX operations -/

/-- R153's example. -/
theorem test_tx_idle_ends_the_pulse :
    nextIs (exec .txIdle (State.reset.setTx (txRelease (sending 0x00 0 [] 4).tx)))
      (fun t => !t.tx.done && !t.tx.busy && t.tx.pos == 4) = true := by decide

/-- R151's example, V-TC2. -/
theorem test_tx_accept_latches_v_tx2 :
    nextIs (exec (.txAccept 0xFE 2 (bytes16OfList [0x03, 0x01])) State.reset)
      (fun t => t.tx.busy && t.tx.len == 2 && t.tx.chk == 0x09 && t.tx.pos == 0 && offeredByte t == 0x02) = true := by
  decide

/-- V-TX3: a requested length of 20 sends 16 bytes, with their checksum. -/
theorem test_tx_accept_truncates_v_tx3 :
    nextIs (exec (.txAccept 0x10 20 (Vector.ofFn fun i => BitVec.ofNat 8 i.val)) State.reset)
      (fun t => t.tx.len == 16 && t.tx.chk == 0x9D) = true := by decide

/-- R156, V-TC3. -/
theorem test_tx_stall_holds_the_byte :
    nextIs (exec .txStall (sending 0xFE 2 [0x03, 0x01] 1))
      (fun t => t.tx.busy && t.tx.pos == 1 && offeredByte t == 0xFE) = true := by decide

/-- R155, V-TC4. -/
theorem test_tx_byte_offers_the_next :
    nextIs (exec .txByte (sending 0xFE 2 [0x03, 0x01] 5))
      (fun t => t.tx.busy && t.tx.pos == 6 && offeredByte t == 0x09 && !t.tx.done) = true := by decide

/-- R155's example. -/
theorem test_tx_last_releases_and_reports :
    nextIs (exec .txLast (sending 0x00 0 [] 4)) (fun t => !t.tx.busy && t.tx.done && t.tx.pos == 4) = true := by decide

/-! ### RESET, the functions, the ping, the command values -/

/-- R200, P7. -/
theorem test_reset_abandons_the_frame :
    nextIs (exec .reset (sending 0xFE 2 [0x03, 0x01] 2)) (fun t => t.tx == TxRegs.reset && !t.tx.done) = true := by decide

/-- V-CK6. -/
theorem test_checksum_of_the_key_event_range :
    nextIs (exec (.checksum [0x02, 0xFE, 0x02, 0x03, 0x01, 0x03]) State.reset)
      (fun t => t.answer == some (.byte 0x09)) = true := by decide

/-- V-CK4: only the low 8 bits of 0x1FE are kept. -/
theorem test_checksum_keeps_the_low_byte :
    nextIs (exec (.checksum [0xFF, 0xFF]) State.reset) (fun t => t.answer == some (.byte 0xFE)) = true := by decide

/-- R113's example. -/
theorem test_validate_accepts_05 :
    nextIs (exec (.validate 0x05) (withRx .chk 0 0 0 [] 0x05)) (fun t => t.answer == some (.valid true)) = true := by decide

/-- R113's example. -/
theorem test_validate_refuses_04 :
    nextIs (exec (.validate 0x04) (withRx .chk 0 0 0 [] 0x05)) (fun t => t.answer == some (.valid false)) = true := by
  decide

/-- R150's example. -/
theorem test_tx_build_of_the_key_event :
    nextIs (exec (.txBuild 0xFE [0x03, 0x01]) State.reset)
      (fun t => t.answer == some (.frame [0x02, 0xFE, 0x02, 0x03, 0x01, 0x03, 0x09])) = true := by decide

/-- V-TX4 with the 17th payload byte of R150: only the first 16 are sent. -/
theorem test_tx_build_truncates_to_sixteen :
    nextIs (exec (.txBuild 0xAB ((List.range 17).map fun k => BitVec.ofNat 8 (k + 1))) State.reset)
      (fun t => t.answer == some (.frame ([0x02, 0xAB, 0x10] ++ (List.range 16).map (fun k => BitVec.ofNat 8 (k + 1))
        ++ [0x03, 0x48]))) = true := by decide

/-- R95. -/
theorem test_ping_presents_the_empty_request :
    nextIs (exec .ping State.reset)
      (fun t => t.env.reqValid && t.env.reqCmd == 0x00 && t.env.reqLen == 0 && !t.tx.busy) = true := by decide

/-- R83, R124: the value 0x00 as frame byte 1. -/
theorem test_cmd_ping_is_stored :
    nextIs (exec .cmdPing (withRx .cmd 0x55 0 0 [] 0x02))
      (fun t => t.rx.cmd == 0x00 && t.rx.stage == .len && t.rx.sum == 0x02) = true := by decide

/-- R83, R124. -/
theorem test_cmd_key_event_is_stored :
    nextIs (exec .cmdKeyEvent (withRx .cmd 0x55 0 0 [] 0x02))
      (fun t => t.rx.cmd == 0xFE && t.rx.stage == .len && t.rx.sum == 0x00) = true := by decide

/-- V-RX3: a second STX is the command. -/
theorem test_cmd_other_takes_stx :
    nextIs (exec (.cmdOther 0x02) (withRx .cmd 0x55 0 0 [] 0x02))
      (fun t => t.rx.cmd == 0x02 && t.rx.stage == .len && t.rx.sum == 0x04) = true := by decide

/-! ### The step -/

/-- P1, edge 5: the ping's CHK byte emits while a request is accepted at the same edge (R184). -/
theorem test_step_runs_both_sides :
    nextIs (step ((withRx .chk 0x00 0 0 [] 0x05).setProgram
        [.cycle { requestCycle 0xFE 2 [0x03, 0x01] with rxValid := true, rxByte := 0x05 }]))
      (fun t => t.fo.valid && t.fo.cmd == 0x00 && t.tx.busy && t.tx.chk == 0x09 && t.edge == 1) = true := by decide

/-- R94: the edge that accepts a held request ends its presentation. -/
theorem test_step_ends_the_accepted_request :
    nextIs (step ((running (.idle 1)).setEnv { Env.reset with reqValid := true, reqCmd := 0x00 }))
      (fun t => t.tx.busy && !t.env.reqValid && t.program == [.idle 0]) = true := by decide

/-- P4: a request waiting at the TX_LAST edge is not accepted there (R155). -/
theorem test_step_keeps_the_waiting_request :
    nextIs (step (((sending 0x00 0 [] 4).setProgram [.idle 1]).setEnv { Env.reset with reqValid := true, reqCmd := 0xFE }))
      (fun t => !t.tx.busy && t.tx.done && t.env.reqValid) = true := by decide

/-- R94: `TXREQ` fills missing data bytes with 0x00. -/
theorem test_step_of_a_request_line :
    nextIs (step (running (.txReq 0xFE 2 [0x03, 0x01])))
      (fun t => t.env.reqValid && t.env.reqData == 0x0103 && t.edge == 0) = true := by decide

/-! ### Witnesses: a state and operands that meet the hypotheses of each statement, at the ends of their ranges -/

theorem witness_EveryKeySelectsExactlyOneRow_rx :
    (keyStage 0x000).toNat ≤ 5 ∧ (keyStage 0x5FF).toNat ≤ 5 ∧ ¬ (keyStage 0x600).toNat ≤ 5 := by decide

theorem witness_EveryKeySelectsExactlyOneRow_tx :
    (0#5).toNat ≤ 4 + (0#5).toNat ∧ (20#5).toNat ≤ 4 + (16#5).toNat := by decide

theorem witness_StageCodes6And7AreRefused : 0x600 ≤ (0x600#11).toNat ∧ 0x600 ≤ (0x7FF#11).toNat := by decide

theorem witness_DecodeOfEncodeIsTheOperation :
    (Instr.s5Reject 0xFF).wellFormed = true ∧ (Instr.s0Skip 0x01).wellFormed = true ∧
      (Instr.cmdOther 0xFF).wellFormed = true := by decide

theorem witness_EveryKeyedRowCanRunNext :
    isRxRow (.s4Abort 0x02) = true ∧ isTxRow .txLast = true ∧ (Instr.s4Abort 0x02).wellFormed = true ∧
      Instr.txLast.wellFormed = true ∧ Instr.reset.wellFormed = true ∧ Instr.ping.wellFormed = true := by decide

theorem witness_StepRunsTheSelectedOperations :
    (running (.cycle (byteCycle 0x02))).program = [.cycle (byteCycle 0x02)] ∧ (byteCycle 0x02).rst = false ∧
      (running (.cycle resetCycle)).program = [.cycle resetCycle] ∧ resetCycle.rst = true := by decide

theorem witness_StimulusLinesDoWhatTheNotationSays :
    (running .rst).program = [.rst] ∧ (running (.rx [0x02, 0x00])).program = [.rx [0x02, 0x00]] ∧
      (running (.rx [])).program = [.rx []] ∧ (running (.idle 3)).program = [.idle 3] ∧
      (running (.idle 0)).program = [.idle 0] ∧ (running (.txReq 0xAB 255 [])).program = [.txReq 0xAB 255 []] ∧
      (running .ping).program = [.ping] ∧ (running .withdraw).program = [.withdraw] ∧
      (running .sinkHold).program = [.sinkHold] ∧ (running .sinkGo).program = [.sinkGo] ∧
      State.reset.program = [] := by decide

theorem witness_RxIdleClearsOnlyFoValid :
    NoReset [idleCycle, quietPorts] ∧ ∀ p ∈ [idleCycle, quietPorts], p.rxValid = false := by
  simp [NoReset, idleCycle, quietPorts]

theorem witness_S0SkipDiscardsTheByte :
    (byteCycle 0x03).rxValid = true ∧ State.reset.rx.stage = .stx ∧ (byteCycle 0x03).rxByte = 0x03 ∧
      (0x03 : Byte) ≠ 0x02 := by decide

theorem witness_S2LenClampsTheLength :
    ([0x01, 0x10, 0x11, 0xFF] : List Byte).all (fun b => b != 0 && nextIs (exec (.s2Len b) (withRx .len 0 0 0 [] 0))
      (fun t => t.rx.stage == .data && t.rx.len.toNat == min b.toNat 16)) = true := by decide

theorem witness_S3DataStoresTheByte_invariant :
    RxInv (withRx .data 0 16 15 [] 0).rx ∧ (withRx .data 0 16 15 [] 0).rx.stage = .data :=
  ⟨⟨by decide, by decide, by decide, by decide⟩, by decide⟩

theorem witness_S3DataStoresTheByte_last :
    (withRx .data 0 16 15 [] 0).rx.cnt + 1 = (withRx .data 0 16 15 [] 0).rx.len ∧
      (withRx .data 0 16 14 [] 0).rx.cnt + 1 ≠ (withRx .data 0 16 14 [] 0).rx.len := by decide

theorem witness_EveryCommandValueIsStoredUnchanged :
    ([Instr.cmdOther 0x00, .cmdPing, .s1Cmd 0x00].all fun i => nextIs (exec i (withRx .cmd 0x55 0 0 [] 0x02))
      fun t => t.rx.cmd == 0x00) = true ∧
    ([Instr.cmdOther 0xFE, .cmdKeyEvent, .s1Cmd 0xFE].all fun i => nextIs (exec i (withRx .cmd 0x55 0 0 [] 0x02))
      fun t => t.rx.cmd == 0xFE) = true := by decide

theorem witness_TxInv_at_the_first_and_the_last_byte :
    TxInv (sending 0xFE 2 [0x03, 0x01] 0).tx ∧ TxInv (sending 0xFE 2 [0x03, 0x01] 6).tx :=
  ⟨⟨by decide, by decide, by decide⟩, ⟨by decide, by decide, by decide⟩⟩

theorem witness_TxStallHoldsTheOfferedByte :
    NoReset [quietPorts, quietPorts] ∧ (∀ p ∈ [quietPorts, quietPorts], p.outReady = false) ∧
      (sending 0xFE 2 [0x03, 0x01] 1).tx.busy = true ∧ TxInv (sending 0xFE 2 [0x03, 0x01] 1).tx :=
  ⟨by simp [NoReset, quietPorts], by simp [quietPorts], by decide, ⟨by decide, by decide, by decide⟩⟩

theorem witness_RequestWaitsForTheExclusion_busy :
    (sending 0x00 0 [] 2).tx.busy = true ∧ SameButRequest (requestCycle 0xFE 2 [0x03, 0x01]) idleCycle := by
  refine ⟨by decide, ?_⟩
  simp [SameButRequest, requestCycle, idleCycle]

theorem witness_RequestWaitsForTheExclusion_free :
    State.reset.tx.busy = false ∧ (requestCycle 0xFE 2 [0x03, 0x01]).reqValid = true := by decide

/-- The request waits through the last two bytes of a ping. -/
theorem witness_RequestWaitsForTheExclusion_later :
    NoReset [requestCycle 0xFE 2 [], requestCycle 0xFE 2 []] ∧
      ∀ n, n ≤ 2 → (runCycles ([requestCycle 0xFE 2 [], requestCycle 0xFE 2 []].take n) (sending 0x00 0 [] 3)).tx.busy =
        decide (n < 2) := by
  refine ⟨by simp [NoReset, requestCycle, idleCycle, quietPorts], ?_⟩
  intro n hn
  match n, hn with
  | 0, _ => decide
  | 1, _ => decide
  | 2, _ => decide

theorem witness_ResetOverridesEverything :
    resetCycle.rst = true ∧ { quietPorts with rst := true }.rst = true ∧ resetCycle.rxValid = true := by decide

theorem witness_RegistersAtReset :
    resetCycle.rst = true ∧ edgeNext resetCycle (sending 0xFE 2 [0x03, 0x01] 3) ≠ sending 0xFE 2 [0x03, 0x01] 3 := by decide

theorem witness_ValidateComparesChkWithRxSum :
    (byteCycle 0x05).rxValid = true ∧ (withRx .chk 0 0 0 [] 0x05).rx.stage = .chk ∧
      nextIs (exec (.validate (byteCycle 0x05).rxByte) (withRx .chk 0 0 0 [] 0x05))
        (fun t => t.answer == some (.valid true)) = true ∧
      nextIs (exec (.validate (byteCycle 0xFF).rxByte) (withRx .chk 0 0 0 [] 0x05))
        (fun t => t.answer == some (.valid false)) = true := by decide

theorem witness_ChecksumDetectsOneChangedByte : [0x02, 0x00, 0x00, 0x03].Perm ([0x03, 0x02, 0x00, 0x00] : List Byte) := by
  decide

/-- A run in the middle of a received and of a sent frame. -/
theorem witness_EveryStepKeepsTheInvariant :
    Inv (((sending 0xFE 2 [0x03, 0x01] 3).setRx (withRx .data 0xFE 2 1 [0x03] 0x05).rx).setProgram [.rx [0x01]]) ∧
      nextIs (step (((sending 0xFE 2 [0x03, 0x01] 3).setRx (withRx .data 0xFE 2 1 [0x03] 0x05).rx).setProgram [.rx [0x01]]))
        (fun t => t.rx.stage == .etx && t.tx.pos == 4) = true :=
  ⟨⟨⟨by decide, by decide, by decide, by decide⟩, ⟨by decide, by decide⟩, ⟨by decide, by decide, by decide⟩⟩, by decide⟩

theorem witness_OnlyTheNamedRulesWriteCmdAndSum :
    (byteCycle 0xFE).rst = false ∧ (edgeNext (byteCycle 0xFE) (withRx .cmd 0 0 0 [] 0x02)).rx.cmd = 0xFE ∧
      (edgeNext (byteCycle 0x00) (withRx .etx 0 0 0 [] 0x02)).rx.sum = 0x02 := by decide

theorem witness_OnlyTheNamedRulesWriteLenCntAndData :
    (byteCycle 0x11).rst = false ∧ (withRx .len 0 3 3 [] 0).rx.stage = .len ∧
      (edgeNext (byteCycle 0x11) (withRx .len 0 3 3 [] 0)).rx.len ≠ (withRx .len 0 3 3 [] 0).rx.len := by decide

theorem witness_FoValidPulsesAtAnEmissionOnly :
    (byteCycle 0x05).rst = false ∧ (edgeNext (byteCycle 0x05) (withRx .chk 0 0 0 [] 0x05)).fo.valid = true ∧
      (edgeNext (byteCycle 0x04) (withRx .chk 0 0 0 [] 0x05)).fo.valid = false := by decide

theorem witness_ExclusionIsTakenAndReleasedByTheNamedRules :
    State.reset.tx.busy = false ∧ (edgeNext (requestCycle 0 0 []) State.reset).tx.busy = true ∧
      (sending 0x00 0 [] 4).tx.busy = true ∧ (edgeNext idleCycle (sending 0x00 0 [] 4)).tx.busy = false ∧
      (edgeNext idleCycle (sending 0x00 0 [] 3)).tx.busy = true := by decide

/-- The RX side sees the same byte; the TX side a request in one run and a frame in flight in the other. -/
theorem witness_RxAndTxDoNotInfluenceEachOther_rx :
    State.reset.edge = (sending 0xFE 2 [] 1).edge ∧ List.Forall₂ SameRxInputs [byteCycle 0x02]
      [{ requestCycle 0x00 0 [] with rxValid := true, rxByte := 0x02 }] ∧ State.reset.rx = (sending 0xFE 2 [] 1).rx ∧
      State.reset.fo = (sending 0xFE 2 [] 1).fo := by
  refine ⟨rfl, ?_, rfl, rfl⟩
  simp [SameRxInputs, byteCycle, requestCycle, idleCycle, quietPorts]

/-- The TX side sees the same; the RX side a byte in one run only. -/
theorem witness_RxAndTxDoNotInfluenceEachOther_tx :
    State.reset.edge = (withRx .chk 0 0 0 [] 0x05).edge ∧
      List.Forall₂ SameTxInputs [byteCycle 0x02] [idleCycle] ∧ State.reset.tx = (withRx .chk 0 0 0 [] 0x05).tx := by
  refine ⟨rfl, ?_, rfl⟩
  simp [SameTxInputs, byteCycle, idleCycle, quietPorts]

theorem witness_VectorPortsPackByteIAtBits8i :
    (15 < 16 ∧ 7 < 8) ∧ (packBytes (bytes16OfList [0x03, 0x01])).getLsbD (8 * 1 + 0) = true := by decide

theorem witness_DesynchronisationIsSilentAndHasTwoCauses :
    (byteCycle 0x02).rst = false ∧ desyncAt (byteCycle 0x02) (withRx .etx 0 0 0 [] 0x02) = some .badEtx ∧
      desyncAt (byteCycle 0x02) (withRx .chk 0 0 0 [] 0x05) = some .badChk ∧
      (withRx .chk 0 0 0 [] 0x05).rx.stage ≠ .stx ∧
      (edgeNext (byteCycle 0x02) (withRx .chk 0 0 0 [] 0x05)).rx.stage = .stx ∧
      emittedFrame (edgeNext (byteCycle 0x02) (withRx .chk 0 0 0 [] 0x05)) = none := by decide

theorem witness_AnEdgeIsOneRxStep :
    (byteCycle 0x05).rst = false ∧ (byteCycle 0x05).rxValid = true ∧ idleCycle.rst = false ∧ idleCycle.rxValid = false ∧
      emittedFrame (edgeNext idleCycle (withRx .chk 0 0 0 [] 0x05)) = none := by decide

/-- P5: a ping's bytes with idle cycles between. -/
def fragmentedPing : List PortIn :=
  [byteCycle 0x02, byteCycle 0x00, idleCycle, idleCycle, byteCycle 0x00, byteCycle 0x03, byteCycle 0x05]

theorem witness_FramesDependOnTheBytesAlone : NoReset fragmentedPing := by
  simp [NoReset, fragmentedPing, byteCycle, idleCycle, quietPorts]

theorem witness_RoundTrip :
    NoReset fragmentedPing ∧ RxAtRest State.reset ∧ rxBytes fragmentedPing = txBuild 0x00 [] :=
  ⟨witness_FramesDependOnTheBytesAlone, rfl, by decide⟩

/-- V-RX13, and a raw LEN of 17 in the second frame. -/
theorem witness_CorruptedChecksumIsDroppedAndTheNextFrameFound :
    RxRegs.reset.stage = .stx ∧ ([] : List Byte).length = min (0x00 : Byte).toNat 16 ∧
      (List.replicate 16 (0xAA : Byte)).length = min (0x11 : Byte).toNat 16 ∧
      (0x04 : Byte) ≠ checksum ([0x02, 0x00, 0x00] ++ [] ++ [0x03]) := by decide

theorem witness_OversizedLenTakesSixteenDataBytes :
    RxRegs.reset.stage = .stx ∧ 16 < (0x11 : Byte).toNat ∧ 16 < (0xFF : Byte).toNat ∧
      (List.replicate 16 (0xAA : Byte)).length = 16 := by decide

/-- V-RX11: its CHK is C5. -/
theorem witness_OversizedLenTakesSixteenDataBytes_chk :
    checksum ([0x02, 0x21, 0xFF] ++ List.replicate 16 0xAA ++ [0x03]) = 0xC5 := by decide

/-- V-RX21. -/
theorem witness_RxSumIsTheChecksumOfTheCandidate :
    RxRegs.reset.stage = .stx ∧ ([0x02, 0xFE, 0x02, 0x03] : List Byte) ≠ [] ∧
      ∀ n, 1 ≤ n → n ≤ 4 → (rxFeed RxRegs.reset (([0x02, 0xFE, 0x02, 0x03] : List Byte).take n)).1.stage ≠ .stx := by
  refine ⟨rfl, by decide, ?_⟩
  intro n h1 h4
  match n, h1, h4 with
  | 1, _, _ => decide
  | 2, _, _ => decide
  | 3, _, _ => decide
  | 4, _, _ => decide

theorem witness_StageZeroRegistersAreUnobservable :
    RxRegs.reset.stage = .stx ∧ (withRx .stx 0x10 16 16 [0x55] 0x9D).rx.stage = .stx := by decide

theorem witness_EmissionsAreFiveEdgesApart :
    emittedFrame (edgeNext (byteCycle 0x05) (withRx .chk 0 0 0 [] 0x05)) ≠ none ∧
      [byteCycle 0x02, byteCycle 0x00, byteCycle 0x00, byteCycle 0x03].length ≤ 4 := by decide

/-- Each position of a frame of two bytes, and of the longest. -/
theorem witness_OfferedBytesSpellTheFrame :
    (∀ p ∈ [0, 1, 2, 3, 4, 5, 6], (sending 0xFE 2 [0x03, 0x01] p).tx.busy = true ∧
      (sending 0xFE 2 [0x03, 0x01] p).tx.pos.toNat ≤ 4 + (sending 0xFE 2 [0x03, 0x01] p).tx.len.toNat) ∧
      (sending 0x10 255 [] 18).tx.pos.toNat = 3 + 15 ∧ (sending 0x10 255 [] 20).tx.pos.toNat = 4 + 16 := by decide

/-- The bytes of V-TX2 at its positions, by R154. -/
theorem witness_OfferedBytesSpellTheFrame_bytes :
    ([0, 1, 2, 3, 4, 5, 6].map fun p => offeredByte (sending 0xFE 2 [0x03, 0x01] p)) =
      [0x02, 0xFE, 0x02, 0x03, 0x01, 0x03, 0x09] := by decide

theorem witness_SinkTakesExactlyTheBuiltFrame :
    (requestCycle 0x00 0 []).rst = false ∧ (requestCycle 0x00 0 []).reqValid = true ∧ TxIdle State.reset ∧
      NoReset [idleCycle, quietPorts, idleCycle] ∧
      readyCount [idleCycle, quietPorts, idleCycle] ≤ 5 + min (requestCycle 0x00 0 []).reqLen.toNat 16 :=
  ⟨by decide, by decide, rfl, by simp [NoReset, idleCycle, quietPorts], by decide⟩

/-- A ping with one stall. -/
theorem witness_TxLastComesAfterFivePlusLPlusStalls :
    TxIdle State.reset ∧ NoReset ([idleCycle, quietPorts, idleCycle, idleCycle, idleCycle] ++ [idleCycle]) ∧
      idleCycle.outReady = true ∧
      readyCount ([idleCycle, quietPorts, idleCycle, idleCycle, idleCycle] ++ [idleCycle]) =
        5 + min (requestCycle 0x00 0 []).reqLen.toNat 16 :=
  ⟨rfl, by simp [NoReset, idleCycle, quietPorts], by decide, by decide⟩

/-- A request presented in one run only, while a frame is in flight. -/
theorem witness_WithdrawnRequestLeavesNoTrace :
    List.Forall₂ SameButRequest [requestCycle 0xFE 2 []] [idleCycle] ∧
      ∀ n (_ : n < [requestCycle 0xFE 2 []].length) (_ : n < [idleCycle].length),
        [requestCycle 0xFE 2 []][n] = [idleCycle][n] ∨
          (runCycles ([requestCycle 0xFE 2 []].take n) (sending 0x00 0 [] 1)).tx.busy = true := by
  refine ⟨by simp [SameButRequest, requestCycle, idleCycle], ?_⟩
  intro n h _
  match n, h with
  | 0, _ => exact .inr (by decide)

theorem witness_FrameInFlightFinishesUnderAFairSink :
    SinkFair (fun _ => idleCycle) ∧ (∀ n : Nat, ((fun _ => idleCycle) n : PortIn).rst = false) ∧
      TxInv (sending 0xFE 2 [0x03, 0x01] 3).tx ∧ (sending 0xFE 2 [0x03, 0x01] 3).tx.busy = true :=
  ⟨fun n => ⟨n, Nat.le_refl n, rfl⟩, fun _ => rfl, ⟨by decide, by decide, by decide⟩, by decide⟩

end Sys2Proof.Tests
end

/-! The statements of 10_state.md: what single edges write, and the two forms of the parser state. -/

namespace Sys2Proof.Machine
open Config

/-! ### What one byte writes, register by register (10_state.md R27 to R31) -/

section
variable (r : RxRegs) (b : Byte)

theorem rxStep_fst_cmd : (rxStep r b).1.cmd = if r.stage = .cmd then b else r.cmd := by
  cases h : r.stage <;> simp [rxStep, h, apply_ite RxRegs.cmd]

theorem rxStep_fst_sum :
    (rxStep r b).1.sum =
      if r.stage = .stx ∧ b = STX then STX
      else if r.stage = .cmd ∨ r.stage = .len ∨ r.stage = .data ∨ (r.stage = .etx ∧ b = ETX) then r.sum + b
      else r.sum := by
  cases h : r.stage with
  | stx => by_cases hb : b = STX <;> simp [rxStep, h, hb]
  | etx => by_cases hb : b = ETX <;> simp [rxStep, h, hb]
  | cmd | len | data | chk => simp [rxStep, h]

theorem rxStep_fst_len : (rxStep r b).1.len = if r.stage = .len then clampLen b else r.len := by
  cases h : r.stage <;> simp [rxStep, h, apply_ite RxRegs.len]

theorem rxStep_fst_cnt :
    (rxStep r b).1.cnt = if r.stage = .len then 0 else if r.stage = .data then r.cnt + 1 else r.cnt := by
  cases h : r.stage <;> simp [rxStep, h, apply_ite RxRegs.cnt]

theorem rxStep_fst_data :
    (rxStep r b).1.data = if r.stage = .data then r.data.setIfInBounds r.cnt.toNat b else r.data := by
  cases h : r.stage <;> simp [rxStep, h, apply_ite RxRegs.data]

end

/-! ### The registers after an edge -/

/-- The parser registers after an edge without reset (41_rx_parser.md R120, R121). -/
theorem edgeNext_rx (p : PortIn) (s : State) (h : p.rst = false) :
    (edgeNext p s).rx = if p.rxValid then (rxStep s.rx p.rxByte).1 else s.rx := by
  rw [edgeNext_eq, edgeResult_rx p s h, rxSide_eq_rxStep]

/-- The frame outputs after an edge without reset: an emission, or the last frame held (10_state.md R33). -/
theorem edgeNext_fo (p : PortIn) (s : State) (h : p.rst = false) :
    (edgeNext p s).fo =
      if p.rxValid = true ∧ s.rx.stage = .chk ∧ p.rxByte = s.rx.sum then foEmit s.rx else foQuiet s.fo := by
  rw [edgeNext_eq, edgeResult_fo p s h]
  unfold rxSide
  cases p.rxValid with
  | false => simp
  | true => cases hs : s.rx.stage <;> simp

/-- The TX registers after an edge without reset. -/
theorem edgeNext_tx (p : PortIn) (s : State) (h : p.rst = false) : (edgeNext p s).tx = txSide p s := by
  rw [edgeNext_eq, edgeResult_tx p s h]

/-- The registers after a reset edge (70_reset_and_hazards.md R200). -/
theorem edgeNext_rst (p : PortIn) (s : State) (h : p.rst = true) :
    (edgeNext p s).rx = RxRegs.reset ∧ (edgeNext p s).fo = FoRegs.reset ∧ (edgeNext p s).tx = TxRegs.reset := by
  rw [edgeNext_eq]
  exact edgeResult_rst p s h

/-- The exclusion from its free state: an accepted request acquires it (42_tx_framer.md R151). -/
theorem txSide_busy_of_free (p : PortIn) (s : State) (h : s.tx.busy = false) : (txSide p s).busy = p.reqValid := by
  cases hr : p.reqValid <;> simp [txSide, h, hr]

/-- The exclusion from its taken state: TX_LAST alone releases it (42_tx_framer.md R155). -/
theorem txSide_busy_of_taken (p : PortIn) (s : State) (h : s.tx.busy = true) :
    (txSide p s).busy = false ↔ selectTx p s = .txLast := by
  rw [selectTx_eq_txLast]
  cases ho : p.outReady with
  | false => simp [txSide, h, ho]
  | true => by_cases hp : s.tx.pos.toNat < 4 + s.tx.len.toNat <;> simp [txSide, h, ho, hp]

/-! ### The statements about single edges -/

/-- Settles O35: the writes of `rxStep` at a presented byte, none without one. -/
theorem onlyTheNamedRulesWriteCmdAndSum : Obligations.OnlyTheNamedRulesWriteCmdAndSum := by
  unfold Obligations.OnlyTheNamedRulesWriteCmdAndSum
  intro p s hrst
  rw [edgeNext_rx p s hrst]
  cases p.rxValid with
  | false => simp
  | true =>
    refine ⟨by simp [rxStep_fst_cmd], ?_⟩
    simp only [if_true, rxStep_fst_sum, true_and]
    rfl

/-- Settles O36: the writes of `rxStep` at a presented byte, none without one. -/
theorem onlyTheNamedRulesWriteLenCntAndData : Obligations.OnlyTheNamedRulesWriteLenCntAndData := by
  unfold Obligations.OnlyTheNamedRulesWriteLenCntAndData
  intro p s hrst
  rw [edgeNext_rx p s hrst]
  cases p.rxValid with
  | false => simp
  | true =>
    refine ⟨?_, ?_, ?_, ?_⟩
    · simp only [if_true, rxStep_fst_len, true_and]
      intro hne
      by_contra hs
      exact hne (if_neg hs)
    · intro _ hs
      simp [rxStep_fst_len, hs, clampLen_toNat, MAX_DATA]
    · simp [rxStep_fst_cnt]
    · intro i hi
      by_cases hs : s.rx.stage = .data
      · simp [rxStep_fst_data, hs, Vector.getElem_setIfInBounds, eq_comm]
      · simp [rxStep_fst_data, hs]

/-- Settles O37: the frame outputs after an edge are those of an emission, or held. -/
theorem foValidPulsesAtAnEmissionOnly : Obligations.FoValidPulsesAtAnEmissionOnly := by
  unfold Obligations.FoValidPulsesAtAnEmissionOnly
  intro p s hrst
  rw [edgeNext_fo p s hrst]
  by_cases hemit : p.rxValid = true ∧ s.rx.stage = .chk ∧ p.rxByte = s.rx.sum
  · simp only [if_pos hemit]
    refine ⟨by simp [hemit], fun _ => ⟨rfl, rfl, takeBytes_foEmit s.rx, foEmit_zero s.rx⟩, by simp⟩
  · have hfo := edgeNext_fo p s hrst
    rw [if_neg hemit] at hfo
    simp only [if_neg hemit]
    refine ⟨by simp [hemit], by simp, fun _ => by simp [FoHeld, hfo]⟩

/-- Settles O38: at a reset edge the exclusion is free; at any other `txSide` says when it changes. -/
theorem exclusionIsTakenAndReleasedByTheNamedRules : Obligations.ExclusionIsTakenAndReleasedByTheNamedRules := by
  unfold Obligations.ExclusionIsTakenAndReleasedByTheNamedRules
  intro p s
  cases hrst : p.rst with
  | true =>
    obtain ⟨_, _, htx⟩ := edgeNext_rst p s hrst
    simp [htx, TxRegs.reset]
  | false =>
    rw [edgeNext_tx p s hrst]
    refine ⟨fun hb => by simp [txSide_busy_of_free p s hb], fun hb => ?_⟩
    simp [txSide_busy_of_taken p s hb, lastAt, hrst]

/-- Settles O27: a reset edge leaves the registers of the reset state. -/
theorem registersAtReset : Obligations.RegistersAtReset := by
  unfold Obligations.RegistersAtReset
  intro t ht
  have hfresh : Fresh t := by
    rcases ht with rfl | ⟨p, s, hrst, rfl⟩
    · exact ⟨rfl, rfl, rfl⟩
    · exact edgeNext_rst p s hrst
  obtain ⟨hrx, hfo, htx⟩ := hfresh
  rw [hrx, hfo, htx]
  decide

end Sys2Proof.Machine

namespace Sys2Proof.Machine
open Config

/-! ### The candidate frame in progress -/

/-- What the parser knows of the candidate frame in progress: all that a later frame can depend on (10_state.md R40).
Both forms of the parser state, the hardware's registers and the source's codec, are read as one (R25). -/
inductive Candidate where
  | none
  | cmd (sum : Byte)
  | len (sum cmd : Byte)
  | data (sum cmd : Byte) (target : Nat) (got : List Byte)
  | etx (sum cmd : Byte) (got : List Byte)
  | chk (sum cmd : Byte) (got : List Byte)

/-- The stage a candidate is in. -/
def Candidate.stage : Candidate → Stage
  | .none => .stx
  | .cmd _ => .cmd
  | .len _ _ => .len
  | .data _ _ _ _ => .data
  | .etx _ _ _ => .etx
  | .chk _ _ _ => .chk

/-- The candidate with the data bytes `got`: it waits for ETX as soon as `target` bytes are there (41_rx_parser.md
R134). -/
def Candidate.collect (sum cmd : Byte) (target : Nat) (got : List Byte) : Candidate :=
  if got.length = target then .etx sum cmd got else .data sum cmd target got

/-- One byte (41_rx_parser.md R122 to R130). -/
def Candidate.step : Candidate → Byte → Candidate × Option Frame
  | .none, b => (if b = STX then .cmd STX else .none, .none)
  | .cmd sum, b => (.len (sum + b) b, .none)
  | .len sum c, b => (collect (sum + b) c (min b.toNat MAX_DATA) [], .none)
  | .data sum c target got, b => (collect (sum + b) c target (got ++ [b]), .none)
  | .etx sum c got, b => (if b = ETX then .chk (sum + ETX) c got else .none, .none)
  | .chk sum c got, b => (.none, if b = sum then some ⟨c, got⟩ else .none)

/-- A byte sequence: the candidate after it, and the frames in order. -/
def Candidate.feed (v : Candidate) : List Byte → Candidate × List Frame
  | [] => (v, [])
  | b :: bs => (((v.step b).1.feed bs).1, (v.step b).2.toList ++ ((v.step b).1.feed bs).2)

namespace Candidate

@[simp] theorem feed_nil (v : Candidate) : v.feed [] = (v, []) := rfl

theorem feed_cons (v : Candidate) (b : Byte) (bs : List Byte) :
    v.feed (b :: bs) = (((v.step b).1.feed bs).1, (v.step b).2.toList ++ ((v.step b).1.feed bs).2) := rfl

theorem feed_append (v : Candidate) (xs ys : List Byte) :
    v.feed (xs ++ ys) = (((v.feed xs).1.feed ys).1, (v.feed xs).2 ++ ((v.feed xs).1.feed ys).2) := by
  induction xs generalizing v with
  | nil => simp
  | cons b bs ih => simp [feed_cons, ih, List.append_assoc]

theorem feed_singleton (v : Candidate) (b : Byte) : v.feed [b] = ((v.step b).1, (v.step b).2.toList) := by
  simp [feed_cons]

/-- Bytes other than STX start no candidate (41_rx_parser.md R122). -/
theorem feed_none_skip (xs : List Byte) (h : STX ∉ xs) : Candidate.none.feed xs = (.none, []) := by
  induction xs with
  | nil => rfl
  | cons x xs ih =>
    simp only [List.mem_cons, not_or] at h
    obtain ⟨hx, hxs⟩ := h
    simp [feed_cons, step, Ne.symm hx, ih hxs]

/-- Data bytes that fit, one by one, are the data bytes taken at once (41_rx_parser.md R134). -/
theorem feed_collect (sum cmd : Byte) (target : Nat) (got xs : List Byte) (h : got.length + xs.length ≤ target) :
    (collect sum cmd target got).feed xs = (collect (sum + checksum xs) cmd target (got ++ xs), []) := by
  induction xs generalizing sum got with
  | nil => simp
  | cons x xs ih =>
    rw [List.length_cons] at h
    have hopen : collect sum cmd target got = .data sum cmd target got := if_neg (by omega)
    have hrest := ih (sum + x) (got ++ [x]) (by simp; omega)
    simp [hopen, feed_cons, step, hrest, BitVec.add_assoc]

end Candidate

/-! ### The hardware's registers as a candidate -/

/-- The candidate the registers hold: in each stage the registers that are written before it (10_state.md R40). -/
def RxRegs.candidate (r : RxRegs) : Candidate :=
  match r.stage with
  | .stx => .none
  | .cmd => .cmd r.sum
  | .len => .len r.sum r.cmd
  | .data => .data r.sum r.cmd r.len.toNat (r.data.toList.take r.cnt.toNat)
  | .etx => .etx r.sum r.cmd (takeBytes r.len r.data)
  | .chk => .chk r.sum r.cmd (takeBytes r.len r.data)

/-- In stage 3 there is room for the next data byte: the part of the invariant the candidate needs, true in stage 0
whatever the other registers hold. -/
def RxRegs.HasRoom (r : RxRegs) : Prop := r.stage = .data → r.cnt.toNat < r.len.toNat ∧ r.len.toNat ≤ MAX_DATA

@[simp] theorem RxRegs.candidate_stage (r : RxRegs) : r.candidate.stage = r.stage := by
  unfold RxRegs.candidate
  split <;> simp [Candidate.stage, *]

theorem RxRegs.candidate_of_stx (r : RxRegs) (h : r.stage = .stx) : r.candidate = .none := by
  simp [RxRegs.candidate, h]

theorem RxRegs.hasRoom_of_stx (r : RxRegs) (h : r.stage = .stx) : r.HasRoom := by simp [RxRegs.HasRoom, h]

/-- With room for a byte, the count after it is one more, and reaches the length as a number. -/
theorem RxRegs.HasRoom.cnt_succ {r : RxRegs} (h : r.HasRoom) (hs : r.stage = .data) :
    (r.cnt + 1).toNat = r.cnt.toNat + 1 ∧ (r.cnt + 1 = r.len ↔ r.cnt.toNat + 1 = r.len.toNat) := by
  obtain ⟨hcnt, hlen⟩ := h hs
  simp only [MAX_DATA] at hlen
  have hsucc : (r.cnt + 1).toNat = r.cnt.toNat + 1 := by simp [BitVec.toNat_add]; omega
  exact ⟨hsucc, by rw [← hsucc]; exact BitVec.toNat_inj.symm⟩

/-- The length rule begins the collection of the data bytes (41_rx_parser.md R125). -/
theorem candidate_rxTakeLen (b : Byte) (r : RxRegs) :
    (rxTakeLen b r).candidate = .collect (r.sum + b) r.cmd (min b.toNat MAX_DATA) [] := by
  have hzero : clampLen b = 0 ↔ min b.toNat MAX_DATA = 0 := by
    rw [← clampLen_toNat, BitVec.toNat_eq]; rfl
  by_cases h : clampLen b = 0
  · simp only [RxRegs.candidate, rxTakeLen_stage, if_pos h]
    simp [Candidate.collect, h, hzero.1 h, takeBytes]
  · simp only [RxRegs.candidate, rxTakeLen_stage, if_neg h]
    simp [Candidate.collect, Ne.symm (mt hzero.2 h), clampLen_toNat]

/-- The data rule adds its byte to the collection (41_rx_parser.md R126). -/
theorem candidate_rxTakeData (b : Byte) (r : RxRegs) (h : r.HasRoom) (hs : r.stage = .data) :
    (rxTakeData b r).candidate =
      .collect (r.sum + b) r.cmd r.len.toNat (r.data.toList.take r.cnt.toNat ++ [b]) := by
  obtain ⟨hcnt, hlen⟩ := h hs
  obtain ⟨hsucc, hlast⟩ := h.cnt_succ hs
  simp only [MAX_DATA] at hlen
  have hgot := take_setIfInBounds r.data r.cnt.toNat b (by omega)
  have hlength : (r.data.toList.take r.cnt.toNat ++ [b]).length = r.cnt.toNat + 1 := by simp; omega
  rw [Candidate.collect, hlength]
  by_cases hl : r.cnt.toNat + 1 = r.len.toNat
  · rw [if_pos hl, ← hgot, hl]
    simp only [RxRegs.candidate, rxTakeData_stage, if_pos (hlast.2 hl)]
    rfl
  · rw [if_neg hl, ← hgot, ← hsucc]
    simp only [RxRegs.candidate, rxTakeData_stage, if_neg (mt hlast.1 hl)]
    rfl

/-- One byte leaves room for the next data byte. -/
theorem RxRegs.HasRoom.rxStep {r : RxRegs} (h : r.HasRoom) (b : Byte) : (rxStep r b).1.HasRoom := by
  cases hs : r.stage with
  | stx => by_cases hb : b = STX <;> simp [rxStep_stx _ _ hs, RxRegs.HasRoom, hb, hs]
  | cmd => simp [rxStep_cmd _ _ hs, RxRegs.HasRoom]
  | len =>
    rw [rxStep_len _ _ hs]
    intro hdata
    have hne : clampLen b ≠ 0 := by
      intro hzero
      simp [hzero] at hdata
    have hpos : (clampLen b).toNat ≠ 0 := fun h0 => hne (BitVec.eq_of_toNat_eq h0)
    exact ⟨Nat.pos_of_ne_zero hpos, clampLen_le b⟩
  | data =>
    obtain ⟨hcnt, hlen⟩ := h hs
    obtain ⟨hsucc, hlast⟩ := h.cnt_succ hs
    rw [rxStep_data _ _ hs]
    intro hdata
    have hne : ¬ r.cnt.toNat + 1 = r.len.toNat := by
      intro hl
      rw [rxTakeData_stage, if_pos (hlast.2 hl)] at hdata
      cases hdata
    rw [rxTakeData_cnt, hsucc, rxTakeData_len]
    exact ⟨by omega, hlen⟩
  | etx => by_cases hb : b = ETX <;> simp [rxStep_etx _ _ hs, RxRegs.HasRoom, hb]
  | chk => simp [rxStep_chk _ _ hs, RxRegs.HasRoom]

/-- The registers take a byte as their candidate does. -/
theorem candidate_rxStep (r : RxRegs) (b : Byte) (h : r.HasRoom) :
    ((rxStep r b).1.candidate, (rxStep r b).2) = r.candidate.step b := by
  cases hs : r.stage with
  | stx =>
    by_cases hb : b = STX <;>
      simp [rxStep_stx _ _ hs, RxRegs.candidate, hs, hb, Candidate.step]
  | cmd => simp [rxStep_cmd _ _ hs, RxRegs.candidate, hs, Candidate.step]
  | len => rw [rxStep_len _ _ hs, candidate_rxTakeLen]; simp [RxRegs.candidate, hs, Candidate.step]
  | data => rw [rxStep_data _ _ hs, candidate_rxTakeData b r h hs]; simp [RxRegs.candidate, hs, Candidate.step]
  | etx =>
    by_cases hb : b = ETX <;>
      simp [rxStep_etx _ _ hs, RxRegs.candidate, hs, hb, Candidate.step]
  | chk => simp [rxStep_chk _ _ hs, RxRegs.candidate, hs, Candidate.step, heldFrame]

/-- The registers take a byte sequence as their candidate does. -/
theorem candidate_rxFeed (r : RxRegs) (bytes : List Byte) (h : r.HasRoom) :
    ((rxFeed r bytes).1.candidate, (rxFeed r bytes).2) = r.candidate.feed bytes := by
  induction bytes generalizing r with
  | nil => rfl
  | cons b bs ih =>
    rw [rxFeed_cons, Candidate.feed_cons, ← candidate_rxStep r b h, ← ih _ (h.rxStep b)]

/-- From stage 0 the frames and the last stage are those of no candidate fed the bytes, whatever the registers hold. -/
theorem rxFeed_of_stx (r : RxRegs) (bytes : List Byte) (h : r.stage = .stx) :
    (rxFeed r bytes).2 = (Candidate.none.feed bytes).2 ∧
      (rxFeed r bytes).1.stage = (Candidate.none.feed bytes).1.stage := by
  have hfeed := candidate_rxFeed r bytes (r.hasRoom_of_stx h)
  rw [r.candidate_of_stx h] at hfeed
  rw [← hfeed]
  exact ⟨rfl, (RxRegs.candidate_stage _).symm⟩

/-- Settles O49: in stage 0 any registers hold the same candidate, none. -/
theorem stageZeroRegistersAreUnobservable : Obligations.StageZeroRegistersAreUnobservable := by
  unfold Obligations.StageZeroRegistersAreUnobservable
  intro r q bytes hr hq
  obtain ⟨hframes, hstage⟩ := rxFeed_of_stx r bytes hr
  obtain ⟨hframes', hstage'⟩ := rxFeed_of_stx q bytes hq
  exact ⟨hframes.trans hframes'.symm, hstage.trans hstage'.symm⟩

end Sys2Proof.Machine

namespace Sys2Proof.Machine
open Config

/-! ### The source's codec as a candidate -/

theorem checksum_append (s t : List Byte) : checksum (s ++ t) = checksum s + checksum t := by
  induction s with
  | nil => simp
  | cons b s ih => simp [ih, BitVec.add_assoc]

namespace SrcCodec

/-- The candidate the codec holds (10_state.md R25).  In stage 3 with every data byte there it is already the one that
waits for ETX: the pass that moves on consumes no byte (41_rx_parser.md R134). -/
def candidate (c : SrcCodec) : Candidate :=
  match c.stage with
  | .stx => .none
  | .cmd => .cmd c.rangeSum
  | .len => .len c.rangeSum c.cmd
  | .data => .collect c.rangeSum c.cmd c.target c.data
  | .etx => .etx c.rangeSum c.cmd c.data
  | .chk => .chk c.rangeSum c.cmd c.data

/-- The codec's own invariant: its offsets are in order and in the buffer, and no more data than the target is
collected. -/
structure Wf (c : SrcCodec) : Prop where
  start_le : c.start ≤ c.cursor
  cursor_le : c.cursor ≤ c.buf.length
  data_le : c.stage = .data → c.data.length ≤ c.target

/-- No byte is left for the loop, and no move out of stage 3 is due (41_rx_parser.md R134). -/
def AtRest (c : SrcCodec) : Prop := c.unread = [] ∧ c.candidate.stage = c.stage

/-- What the dispatch loop can still do: two passes for each byte, and one for the move out of stage 3. -/
def passesLeft (c : SrcCodec) : Nat := 2 * c.unread.length + if c.stage = .data then 1 else 0

/-- From `c` to `d` the bytes `xs` are consumed and the frames `fs` emitted, as the candidate of `c` does it. -/
structure Consumes (c d : SrcCodec) (xs : List Byte) (fs : List Frame) : Prop where
  wf : d.Wf
  unread_eq : c.unread = xs ++ d.unread
  feed_eq : c.candidate.feed xs = (d.candidate, fs)

theorem Consumes.trans {c d e : SrcCodec} {xs ys : List Byte} {fs gs : List Frame} (h : c.Consumes d xs fs)
    (k : d.Consumes e ys gs) : c.Consumes e (xs ++ ys) (fs ++ gs) where
  wf := k.wf
  unread_eq := by rw [h.unread_eq, k.unread_eq, List.append_assoc]
  feed_eq := by simp [Candidate.feed_append, h.feed_eq, k.feed_eq]

/-! ### Moving the cursor -/

/-- From `c` to `d` the cursor moves over `n` bytes of the same buffer, the candidate's start kept. -/
structure Advances (c d : SrcCodec) (n : Nat) : Prop where
  buf_eq : d.buf = c.buf
  start_eq : d.start = c.start
  cursor_eq : d.cursor = c.cursor + n

section
variable {c d : SrcCodec} {n : Nat}

theorem length_unread (c : SrcCodec) : c.unread.length = c.buf.length - c.cursor := List.length_drop

theorem Advances.unread (h : c.Advances d n) : d.unread = c.unread.drop n := by
  simp [SrcCodec.unread, h.buf_eq, h.cursor_eq, List.drop_drop]

theorem Advances.rangeSum (h : c.Advances d n) (hc : c.Wf) : d.rangeSum = c.rangeSum + checksum (c.unread.take n) := by
  have hstart : c.start ≤ (c.buf.take c.cursor).length := by
    rw [List.length_take]; exact le_min hc.start_le (hc.start_le.trans hc.cursor_le)
  rw [SrcCodec.rangeSum, SrcCodec.rangeSum, SrcCodec.unread, h.buf_eq, h.start_eq, h.cursor_eq, List.take_add,
    List.drop_append_of_le_length hstart, checksum_append]

/-- The moved codec meets the invariant if the bytes are there. -/
theorem Advances.wf (h : c.Advances d n) (hc : c.Wf) (hn : n ≤ c.unread.length)
    (hdata : d.stage = .data → d.data.length ≤ d.target) : d.Wf where
  start_le := by rw [h.start_eq, h.cursor_eq]; exact hc.start_le.trans (Nat.le_add_right _ _)
  cursor_le := by
    have := hc.cursor_le
    rw [length_unread] at hn
    rw [h.cursor_eq, h.buf_eq]
    omega
  data_le := hdata

/-- Over one byte: what is left, and the byte summed. -/
theorem Advances.one (h : c.Advances d 1) (hc : c.Wf) {b : Byte} {rest : List Byte} (hu : c.unread = b :: rest) :
    d.unread = rest ∧ d.rangeSum = c.rangeSum + b :=
  ⟨by rw [h.unread, hu]; rfl, by simp [h.rangeSum hc, hu]⟩

/-- A pass that reads one byte and moves on consumes it. -/
theorem Advances.consumes (h : c.Advances d 1) (hc : c.Wf) {b : Byte} {rest : List Byte} (hu : c.unread = b :: rest)
    (hdata : d.stage = .data → d.data.length ≤ d.target) (hstep : c.candidate.step b = (d.candidate, none)) :
    c.Consumes d [b] [] where
  wf := h.wf hc (by simp [hu]) hdata
  unread_eq := by rw [hu, (h.one hc hu).1]; rfl
  feed_eq := by rw [Candidate.feed_singleton, hstep]; rfl

end

/-! ### The decision points -/

theorem discard_wf (c : SrcCodec) (n : Nat) : (c.discard n).Wf := ⟨Nat.le_refl 0, Nat.zero_le _, nofun⟩

theorem unread_discard (c : SrcCodec) (n : Nat) : (c.discard n).unread = c.unread.drop n := by
  simp [SrcCodec.unread, discard, List.drop_drop]

/-- A decision point consumes its byte, with the frame the decision gives (10_state.md R22). -/
theorem consumes_discard {c : SrcCodec} {b : Byte} {rest : List Byte} (hu : c.unread = b :: rest) {o : Option Frame}
    (hstep : c.candidate.step b = (.none, o)) : c.Consumes (c.discard 1) [b] o.toList where
  wf := c.discard_wf 1
  unread_eq := by rw [unread_discard, hu]; rfl
  feed_eq := by rw [Candidate.feed_singleton, hstep]; rfl

/-! ### One pass, stage by stage -/

/-- What a pass does: it consumes some bytes as the candidate does, and either progresses towards rest or is at rest. -/
def PassIsSound (c : SrcCodec) : Prop :=
  ∃ xs, c.Consumes c.pass.codec xs c.pass.frame.toList ∧
    if c.pass.progress then c.pass.codec.passesLeft < c.passesLeft else c.pass.codec.AtRest

/-- A pass that finds no byte, in a stage that waits for one, leaves the codec at rest. -/
theorem passIsSound_of_waiting {c : SrcCodec} (hc : c.Wf) (hu : c.unread = []) (hp : c.pass = ⟨c, none, false⟩)
    (hrest : c.candidate.stage = c.stage) : c.PassIsSound := by
  rw [PassIsSound, hp]
  exact ⟨[], ⟨hc, rfl, rfl⟩, hu, hrest⟩

/-- A pass that consumes a byte progresses. -/
theorem passIsSound_of_bytes {c d : SrcCodec} {xs : List Byte} {o : Option Frame} (hp : c.pass = ⟨d, o, true⟩)
    (hxs : xs ≠ []) (h : c.Consumes d xs o.toList) : c.PassIsSound := by
  rw [PassIsSound, hp]
  refine ⟨xs, h, ?_⟩
  have hpos := List.length_pos_iff.2 hxs
  have hlen := congrArg List.length h.unread_eq
  rw [List.length_append] at hlen
  simp only [if_true, passesLeft]
  split <;> omega

/-- A pass that reads one byte and moves on to the next stage. -/
theorem passIsSound_of_advance {c d : SrcCodec} (hp : c.pass = ⟨d, none, true⟩) (h : c.Advances d 1) (hc : c.Wf)
    {b : Byte} {rest : List Byte} (hu : c.unread = b :: rest) (hdata : d.stage = .data → d.data.length ≤ d.target)
    (hstep : d.rangeSum = c.rangeSum + b → c.candidate.step b = (d.candidate, none)) : c.PassIsSound :=
  passIsSound_of_bytes hp (List.cons_ne_nil b []) (h.consumes hc hu hdata (hstep (h.one hc hu).2))

/-- The bytes stage 3 takes in one pass: those that are there, up to the target. -/
def received (c : SrcCodec) : List Byte := c.unread.take (c.target - c.data.length)

theorem length_data_add_received {c : SrcCodec} (hc : c.Wf) (hs : c.stage = .data) :
    c.data.length + c.received.length ≤ c.target := by
  have hle := hc.data_le hs
  simp only [received, List.length_take]
  omega

/-- The codec in stage `st` after stage 3 has taken the bytes that are there, up to the target. -/
def afterReceiving (c : SrcCodec) (st : Stage) : SrcCodec :=
  { c with cursor := c.cursor + c.received.length, data := c.data ++ c.received, stage := st }

theorem pass_data {c : SrcCodec} (hs : c.stage = .data) :
    c.pass = if (c.data ++ c.received).length = c.target then ⟨c.afterReceiving .etx, none, true⟩
      else ⟨c.afterReceiving .data, none, false⟩ := by
  rw [afterReceiving, afterReceiving, ← hs]
  simp only [pass, hs]
  rfl

theorem unread_afterReceiving (c : SrcCodec) (st : Stage) :
    (c.afterReceiving st).unread = c.unread.drop c.received.length :=
  Advances.unread ⟨rfl, rfl, rfl⟩

/-- Taking them all at once is what the candidate does one by one. -/
theorem consumes_received {c : SrcCodec} (hc : c.Wf) (hs : c.stage = .data) (st : Stage)
    (hd : (c.afterReceiving st).candidate =
      .collect (c.afterReceiving st).rangeSum c.cmd c.target (c.data ++ c.received)) :
    c.Consumes (c.afterReceiving st) c.received [] := by
  have hadv : c.Advances (c.afterReceiving st) c.received.length := ⟨rfl, rfl, rfl⟩
  have hfits := length_data_add_received hc hs
  have htake : c.unread.take c.received.length = c.received := by simp [received]
  refine ⟨hadv.wf hc (by simp [received]) (fun _ => by simpa [afterReceiving] using hfits), ?_, ?_⟩
  · calc c.unread = c.unread.take c.received.length ++ c.unread.drop c.received.length :=
          (List.take_append_drop _ _).symm
      _ = c.received ++ (c.afterReceiving st).unread := by rw [htake, unread_afterReceiving]
  · rw [hd, hadv.rangeSum hc, htake, candidate, hs]
    exact Candidate.feed_collect _ _ _ _ _ hfits

/-- The codec with its cursor on the STX that is `k` bytes ahead, where the candidate's range starts. -/
def atSTX (c : SrcCodec) (k : Nat) : SrcCodec := { c with cursor := c.cursor + k, start := c.cursor + k }

/-- The codec after that STX is read. -/
def afterSTX (c : SrcCodec) (k : Nat) : SrcCodec :=
  { c with cursor := c.cursor + k + 1, start := c.cursor + k, stage := .cmd }

theorem unread_atSTX (c : SrcCodec) (k : Nat) : (c.atSTX k).unread = c.unread.drop k := by
  simp [SrcCodec.unread, atSTX, List.drop_drop]

theorem rangeSum_atSTX (c : SrcCodec) (k : Nat) : (c.atSTX k).rangeSum = 0 := by
  simp [rangeSum, atSTX]

section
variable {c : SrcCodec} (hc : c.Wf)
include hc

theorem atSTX_wf {k : Nat} (hk : k < c.unread.length) : (c.atSTX k).Wf := by
  rw [length_unread] at hk
  exact ⟨Nat.le_refl _, by simp only [atSTX]; omega, hc.data_le⟩

/-- The bytes up to the first STX start no candidate; the STX starts one (41_rx_parser.md R122, R123). -/
theorem consumes_afterSTX (hs : c.stage = .stx) {k : Nat} (hk : c.unread.findIdx? (· == STX) = some k) :
    c.Consumes (c.afterSTX k) (c.unread.take k ++ [STX]) [] := by
  obtain ⟨hlt, hfound, hbefore⟩ := List.findIdx?_eq_some_iff_getElem.1 hk
  have hskip : STX ∉ c.unread.take k := by
    intro hmem
    obtain ⟨j, hj, hstx⟩ := List.mem_take_iff_getElem.1 hmem
    exact hbefore j (by omega) (by simp [hstx])
  have hnone : c.candidate = .none := by simp [candidate, hs]
  have hnone' : (c.atSTX k).candidate = .none := by simp [candidate, atSTX, hs]
  have hfront : c.Consumes (c.atSTX k) (c.unread.take k) [] := by
    refine ⟨atSTX_wf hc hlt, ?_, ?_⟩
    · rw [unread_atSTX, List.take_append_drop]
    · rw [hnone, Candidate.feed_none_skip _ hskip, hnone']
  have hu : (c.atSTX k).unread = STX :: c.unread.drop (k + 1) := by
    rw [unread_atSTX, List.drop_eq_getElem_cons hlt, beq_iff_eq.1 hfound]
  have hadv : (c.atSTX k).Advances (c.afterSTX k) 1 := ⟨rfl, rfl, rfl⟩
  have hcand : (c.afterSTX k).candidate = .cmd (c.afterSTX k).rangeSum := rfl
  refine hfront.trans (hadv.consumes hfront.wf hu nofun ?_)
  rw [hnone', hcand, (hadv.one hfront.wf hu).2, rangeSum_atSTX]
  simp [Candidate.step]

/-- Stage 0 skips to the first STX and reads it (41_rx_parser.md R122, R123). -/
theorem passIsSound_stx (hs : c.stage = .stx) : c.PassIsSound := by
  have hnone : c.candidate = .none := by simp [candidate, hs]
  cases hk : c.unread.findIdx? (· == STX) with
  | none =>
    have hp : c.pass = ⟨{ c with cursor := c.buf.length }, none, false⟩ := by simp [pass, hs, hk]
    have hskip : STX ∉ c.unread := fun hmem => by simpa using List.findIdx?_eq_none_iff.1 hk STX hmem
    have hdone : ({ c with cursor := c.buf.length } : SrcCodec).unread = [] := List.drop_length
    rw [PassIsSound, hp]
    refine ⟨c.unread, ⟨⟨hc.start_le.trans hc.cursor_le, Nat.le_refl _, hc.data_le⟩, ?_, ?_⟩, hdone, ?_⟩
    · rw [hdone, List.append_nil]
    · rw [hnone, Candidate.feed_none_skip _ hskip]
      simp [candidate, hs]
    · simp [candidate, hs, Candidate.stage]
  | some k =>
    have hp : c.pass = ⟨c.afterSTX k, none, true⟩ := by simp [pass, hs, hk, afterSTX]
    exact passIsSound_of_bytes hp (by simp) (consumes_afterSTX hc hs hk)

/-- Stage 1 reads the command byte (41_rx_parser.md R124). -/
theorem passIsSound_cmd (hs : c.stage = .cmd) : c.PassIsSound := by
  cases hu : c.unread with
  | nil => exact passIsSound_of_waiting hc hu (by simp [pass, hs, hu]) (by simp [candidate, hs, Candidate.stage])
  | cons b rest =>
    have hp : c.pass = ⟨{ c with cursor := c.cursor + 1, cmd := b, stage := .len }, none, true⟩ := by
      simp [pass, hs, hu]
    exact passIsSound_of_advance hp ⟨rfl, rfl, rfl⟩ hc hu nofun fun hsum => by
      simp [candidate, hs, Candidate.step, hsum]

/-- Stage 2 reads the length byte (41_rx_parser.md R125). -/
theorem passIsSound_len (hs : c.stage = .len) : c.PassIsSound := by
  cases hu : c.unread with
  | nil => exact passIsSound_of_waiting hc hu (by simp [pass, hs, hu]) (by simp [candidate, hs, Candidate.stage])
  | cons b rest =>
    have hp : c.pass = ⟨{ c with
        cursor := c.cursor + 1, target := min b.toNat MAX_DATA, data := [], stage := .data }, none, true⟩ := by
      simp [pass, hs, hu]
    exact passIsSound_of_advance hp ⟨rfl, rfl, rfl⟩ hc hu (fun _ => Nat.zero_le _) fun hsum => by
      simp [candidate, hs, Candidate.step, hsum]

/-- Stage 3 (41_rx_parser.md R126, R134) moves on when the target is reached, and else has read every byte. -/
theorem passIsSound_data (hs : c.stage = .data) : c.PassIsSound := by
  by_cases hfull : (c.data ++ c.received).length = c.target
  · have hp : c.pass = ⟨c.afterReceiving .etx, none, true⟩ := by rw [pass_data hs, if_pos hfull]
    have hcons : c.Consumes (c.afterReceiving .etx) c.received [] :=
      consumes_received hc hs .etx (by rw [Candidate.collect, if_pos hfull]; rfl)
    have hless : (c.afterReceiving .etx).passesLeft < c.passesLeft := by
      have hstage : (c.afterReceiving .etx).stage = .etx := rfl
      simp [passesLeft, hs, hstage, unread_afterReceiving]
    rw [PassIsSound, hp]
    exact ⟨c.received, hcons, hless⟩
  · have hp : c.pass = ⟨c.afterReceiving .data, none, false⟩ := by rw [pass_data hs, if_neg hfull]
    have hcons : c.Consumes (c.afterReceiving .data) c.received [] := consumes_received hc hs .data rfl
    have hall : c.unread.length ≤ c.received.length := by
      have hfits := length_data_add_received hc hs
      simp only [List.length_append, received, List.length_take] at hfull hfits ⊢
      omega
    have hdone : (c.afterReceiving .data).unread = [] := by
      rw [unread_afterReceiving, List.drop_eq_nil_of_le hall]
    have hstage : (c.afterReceiving .data).candidate.stage = .data := by
      have hd : (c.afterReceiving .data).candidate = .data _ c.cmd c.target (c.data ++ c.received) := if_neg hfull
      rw [hd, Candidate.stage]
    rw [PassIsSound, hp]
    exact ⟨c.received, hcons, hdone, hstage⟩

/-- Stage 4 reads ETX or discards the candidate (41_rx_parser.md R127, R128). -/
theorem passIsSound_etx (hs : c.stage = .etx) : c.PassIsSound := by
  cases hu : c.unread with
  | nil => exact passIsSound_of_waiting hc hu (by simp [pass, hs, hu]) (by simp [candidate, hs, Candidate.stage])
  | cons b rest =>
    by_cases hb : b = ETX
    · have hp : c.pass = ⟨{ c with cursor := c.cursor + 1, stage := .chk }, none, true⟩ := by
        simp [pass, hs, hu, hb]
      exact passIsSound_of_advance hp ⟨rfl, rfl, rfl⟩ hc hu nofun fun hsum => by
        simp [candidate, hs, Candidate.step, hb, hsum]
    · have hp : c.pass = ⟨c.discard 1, none, true⟩ := by simp [pass, hs, hu, hb]
      exact passIsSound_of_bytes hp (List.cons_ne_nil b []) (consumes_discard hu (by
        simp [candidate, hs, Candidate.step, hb]))

/-- Stage 5 decides (41_rx_parser.md R129, R130). -/
theorem passIsSound_chk (hs : c.stage = .chk) : c.PassIsSound := by
  cases hu : c.unread with
  | nil => exact passIsSound_of_waiting hc hu (by simp [pass, hs, hu]) (by simp [candidate, hs, Candidate.stage])
  | cons b rest =>
    have hp : c.pass = ⟨c.discard 1, if b = c.rangeSum then some ⟨c.cmd, c.data⟩ else none, true⟩ := by
      simp [pass, hs, hu]
    exact passIsSound_of_bytes hp (List.cons_ne_nil b []) (consumes_discard hu (by
      simp [candidate, hs, Candidate.step]))

theorem passIsSound : c.PassIsSound := by
  cases hs : c.stage with
  | stx => exact passIsSound_stx hc hs
  | cmd => exact passIsSound_cmd hc hs
  | len => exact passIsSound_len hc hs
  | data => exact passIsSound_data hc hs
  | etx => exact passIsSound_etx hc hs
  | chk => exact passIsSound_chk hc hs

end

/-! ### The loop, a transport read, a list of them -/

/-- With enough fuel the loop consumes every byte and ends at rest (41_rx_parser.md R134). -/
theorem loop_consumes (fuel : Nat) (c : SrcCodec) (hc : c.Wf) (hfuel : c.passesLeft < fuel) :
    c.Consumes (loop fuel c).1 c.unread (loop fuel c).2 ∧ (loop fuel c).1.AtRest := by
  induction fuel generalizing c with
  | zero => omega
  | succ fuel ih =>
    obtain ⟨xs, hpass, hend⟩ := passIsSound hc
    rw [loop]
    by_cases hp : c.pass.progress = true
    · rw [if_pos hp] at hend
      obtain ⟨hloop, hrest⟩ := ih c.pass.codec hpass.wf (by omega)
      have hall := hpass.trans hloop
      rw [← hpass.unread_eq] at hall
      simp only [if_pos hp]
      exact ⟨hall, hrest⟩
    · rw [if_neg hp] at hend
      have hxs : c.unread = xs := by rw [hpass.unread_eq, hend.1, List.append_nil]
      simp only [if_neg hp]
      rw [hxs]
      exact ⟨hpass, hend⟩

/-- A transport read appends its chunk to the buffer (10_state.md R22). -/
def withChunk (c : SrcCodec) (chunk : List Byte) : SrcCodec := { c with buf := c.buf ++ chunk }

theorem withChunk_wf {c : SrcCodec} (hc : c.Wf) (chunk : List Byte) : (c.withChunk chunk).Wf where
  start_le := hc.start_le
  cursor_le := hc.cursor_le.trans (by simp [withChunk])
  data_le := hc.data_le

theorem unread_withChunk {c : SrcCodec} (hc : c.Wf) (chunk : List Byte) :
    (c.withChunk chunk).unread = c.unread ++ chunk :=
  List.drop_append_of_le_length hc.cursor_le

/-- The bytes the cursor has read are the same, and so is the candidate. -/
theorem candidate_withChunk {c : SrcCodec} (hc : c.Wf) (chunk : List Byte) :
    (c.withChunk chunk).candidate = c.candidate := by
  have hsum : (c.withChunk chunk).rangeSum = c.rangeSum := by
    simp [rangeSum, withChunk, List.take_append_of_le_length hc.cursor_le]
  rw [candidate, hsum]
  rfl

/-- One transport read, from rest to rest: the chunk's bytes are taken as the candidate takes them. -/
theorem feed_consumes {c : SrcCodec} (hc : c.Wf) (hrest : c.AtRest) (chunk : List Byte) :
    (c.feed chunk).1.Wf ∧ (c.feed chunk).1.AtRest ∧
      c.candidate.feed chunk = ((c.feed chunk).1.candidate, (c.feed chunk).2) := by
  obtain ⟨hread, _⟩ := hrest
  have hfuel : (c.withChunk chunk).passesLeft < 2 * (c.withChunk chunk).unread.length + 2 := by
    unfold passesLeft
    split <;> omega
  have hloop : (c.withChunk chunk).Consumes (c.feed chunk).1 (c.withChunk chunk).unread (c.feed chunk).2 ∧
      (c.feed chunk).1.AtRest := loop_consumes _ _ (withChunk_wf hc chunk) hfuel
  rw [unread_withChunk hc, hread, List.nil_append] at hloop
  obtain ⟨hcons, hend⟩ := hloop
  have hfed := hcons.feed_eq
  rw [candidate_withChunk hc] at hfed
  exact ⟨hcons.wf, hend, hfed⟩

/-- A list of transport reads, from rest to rest: how the bytes are split is not seen. -/
theorem feedAll_consumes {c : SrcCodec} (hc : c.Wf) (hrest : c.AtRest) (chunks : List (List Byte)) :
    (c.feedAll chunks).1.AtRest ∧
      c.candidate.feed chunks.flatten = ((c.feedAll chunks).1.candidate, (c.feedAll chunks).2) := by
  induction chunks generalizing c with
  | nil => exact ⟨hrest, rfl⟩
  | cons chunk chunks ih =>
    obtain ⟨hwf, hrest', hfeed⟩ := feed_consumes hc hrest chunk
    obtain ⟨hend, hfeeds⟩ := ih hwf hrest'
    exact ⟨hend, by simp [feedAll, Candidate.feed_append, hfeed, hfeeds]⟩

theorem create_wf : create.Wf := ⟨Nat.le_refl 0, Nat.le_refl 0, nofun⟩

theorem create_atRest : create.AtRest := ⟨rfl, rfl⟩

end SrcCodec

/-- Settles O51: both forms of the parser state take the bytes as the candidate does that both begin with, none. -/
theorem sourceParserAndHardwareParserAgree : Obligations.SourceParserAndHardwareParserAgree := by
  unfold Obligations.SourceParserAndHardwareParserAgree
  intro chunks
  obtain ⟨hframes, hstage⟩ := rxFeed_of_stx RxRegs.reset chunks.flatten rfl
  obtain ⟨⟨_, hrest⟩, hfeed⟩ := SrcCodec.feedAll_consumes SrcCodec.create_wf SrcCodec.create_atRest chunks
  have hnone : SrcCodec.create.candidate = .none := rfl
  rw [hnone] at hfeed
  rw [hframes, hstage, hfeed]
  exact ⟨rfl, hrest.symm⟩

end Sys2Proof.Machine

/-! The statement of 20_memory.md R73: two runs that agree on one side keep agreeing on it. -/

namespace Sys2Proof.Machine

theorem edgeNext_edge (p : PortIn) (s : State) : (edgeNext p s).edge = s.edge + 1 := by
  rw [edgeNext_eq, edgeResult_edge]

/-- The RX side's registers after an edge without reset. -/
theorem edgeNext_rxSide (p : PortIn) (s : State) (h : p.rst = false) :
    (edgeNext p s).rx = (rxSide p s).1 ∧ (edgeNext p s).fo = (rxSide p s).2 := by
  rw [edgeNext_eq]
  exact ⟨edgeResult_rx p s h, edgeResult_fo p s h⟩

/-- The two states have the same edge number and RX side: parser and frame output registers. -/
structure SameRxSide (s t : State) : Prop where
  edge : s.edge = t.edge
  rx : s.rx = t.rx
  fo : s.fo = t.fo

/-- The two states have the same edge number and TX registers.  The number matters for the free bytes (log 5). -/
structure SameTxSide (s t : State) : Prop where
  edge : s.edge = t.edge
  tx : s.tx = t.tx

/-! ### The RX side -/

section
variable {p q : PortIn} {s t : State} (hin : SameRxInputs p q) (h : SameRxSide s t)
include hin h

/-- The byte port is read only under `rx_valid` (41_rx_parser.md R121). -/
theorem SameRxSide.rxSide_eq : rxSide p s = rxSide q t := by
  obtain ⟨_, hvalid, hbyte⟩ := hin
  unfold rxSide
  rw [h.rx, h.fo, ← hvalid]
  cases hv : p.rxValid with
  | false => rfl
  | true => rw [hbyte hv]

theorem SameRxSide.edgeNext : SameRxSide (edgeNext p s) (edgeNext q t) := by
  have hside := h.rxSide_eq hin
  obtain ⟨hrst, _, _⟩ := hin
  have hedge : (Machine.edgeNext p s).edge = (Machine.edgeNext q t).edge := by
    rw [edgeNext_edge, edgeNext_edge, h.edge]
  cases hp : p.rst with
  | true =>
    obtain ⟨hrx, hfo, _⟩ := edgeNext_rst p s hp
    obtain ⟨hrx', hfo', _⟩ := edgeNext_rst q t (hrst ▸ hp)
    exact ⟨hedge, hrx.trans hrx'.symm, hfo.trans hfo'.symm⟩
  | false =>
    obtain ⟨hrx, hfo⟩ := edgeNext_rxSide p s hp
    obtain ⟨hrx', hfo'⟩ := edgeNext_rxSide q t (hrst ▸ hp)
    exact ⟨hedge, by rw [hrx, hrx', hside], by rw [hfo, hfo', hside]⟩

end

theorem SameRxSide.emittedFrame_eq {s t : State} (h : SameRxSide s t) : emittedFrame s = emittedFrame t := by
  rw [emittedFrame, emittedFrame, h.fo]

theorem SameRxSide.runCycles {ps qs : List PortIn} (hin : List.Forall₂ SameRxInputs ps qs) {s t : State}
    (h : SameRxSide s t) : SameRxSide (runCycles ps s) (runCycles qs t) := by
  induction hin generalizing s t with
  | nil => exact h
  | cons hp _ ih => exact ih (h.edgeNext hp)

theorem SameRxSide.frames_eq {ps qs : List PortIn} (hin : List.Forall₂ SameRxInputs ps qs) {s t : State}
    (h : SameRxSide s t) : (observe ps s).frames = (observe qs t).frames := by
  induction hin generalizing s t with
  | nil => rfl
  | cons hp _ ih =>
    have hnext := h.edgeNext hp
    simp only [observe, h.edge, hnext.emittedFrame_eq, ih hnext]

/-! ### The TX side -/

section
variable {p q : PortIn} {s t : State} (hin : SameTxInputs p q) (h : SameTxSide s t)
include hin h

/-- The request's fields are read only at an acceptance, where a request is presented (42_tx_framer.md R151). -/
theorem SameTxSide.txSide_eq : txSide p s = txSide q t := by
  obtain ⟨_, hvalid, hready, hreq⟩ := hin
  unfold txSide
  rw [h.tx, ← hvalid, ← hready]
  cases hv : p.reqValid with
  | false => rfl
  | true =>
    obtain ⟨hcmd, hlen, hdata⟩ := hreq hv
    rw [hcmd, hlen, hdata]

theorem SameTxSide.edgeNext : SameTxSide (edgeNext p s) (edgeNext q t) := by
  have hside := h.txSide_eq hin
  obtain ⟨hrst, _, _, _⟩ := hin
  refine ⟨by rw [edgeNext_edge, edgeNext_edge, h.edge], ?_⟩
  cases hp : p.rst with
  | true =>
    obtain ⟨_, _, htx⟩ := edgeNext_rst p s hp
    obtain ⟨_, _, htx'⟩ := edgeNext_rst q t (hrst ▸ hp)
    exact htx.trans htx'.symm
  | false => rw [edgeNext_tx p s hp, edgeNext_tx q t (hrst ▸ hp), hside]

theorem SameTxSide.takenByte_eq : takenByte p s = takenByte q t := by
  obtain ⟨hrst, _, hready, _⟩ := hin
  rw [takenByte, takenByte, offeredByte, offeredByte, hrst, hready, h.tx, h.edge]

theorem SameTxSide.lastAt_eq : lastAt p s = lastAt q t := by
  obtain ⟨hrst, _, hready, _⟩ := hin
  simp only [lastAt, selectTx_eq_txLast, hrst, hready, h.tx]

end

theorem SameTxSide.runCycles {ps qs : List PortIn} (hin : List.Forall₂ SameTxInputs ps qs) {s t : State}
    (h : SameTxSide s t) : SameTxSide (runCycles ps s) (runCycles qs t) := by
  induction hin generalizing s t with
  | nil => exact h
  | cons hp _ ih => exact ih (h.edgeNext hp)

theorem SameTxSide.taken_eq_and_lasts_eq {ps qs : List PortIn} (hin : List.Forall₂ SameTxInputs ps qs) {s t : State}
    (h : SameTxSide s t) :
    (observe ps s).taken = (observe qs t).taken ∧ (observe ps s).lasts = (observe qs t).lasts := by
  induction hin generalizing s t with
  | nil => exact ⟨rfl, rfl⟩
  | cons hp _ ih =>
    obtain ⟨htaken, hlasts⟩ := ih (h.edgeNext hp)
    simp only [observe, h.edge, h.takenByte_eq hp, h.lastAt_eq hp, htaken, hlasts, and_self]

/-- Settles O40: each side's agreement is kept by every edge, and what the side emits or sends is read from it. -/
theorem rxAndTxDoNotInfluenceEachOther : Obligations.RxAndTxDoNotInfluenceEachOther := by
  unfold Obligations.RxAndTxDoNotInfluenceEachOther
  intro ps qs s t hedge
  constructor
  · intro hin hrx hfo
    have h : SameRxSide s t := ⟨hedge, hrx, hfo⟩
    have hend := h.runCycles hin
    exact ⟨h.frames_eq hin, hend.rx, hend.fo⟩
  · intro hin htx
    have h : SameTxSide s t := ⟨hedge, htx⟩
    obtain ⟨htaken, hlasts⟩ := h.taken_eq_and_lasts_eq hin
    exact ⟨htaken, hlasts, (h.runCycles hin).tx⟩

end Sys2Proof.Machine


/-! The statements of 30_encoding.md: what the keys and the selection records select, the placing of an operation, the
lines of a stimulus program, the vector ports and the raw length byte. -/

namespace Sys2Proof
open Config Machine

/-! ### Selection records -/

/-- The record of an RX key that selects an operation decodes to it. -/
theorem decode_encodeRx_of_some {st : BitVec 3} {b sum : Byte} {i : Instr}
    (h : decodeRx true (rxKey st b) sum = some i) : decode (encodeRx st b sum) = .ok i := by
  rw [decode_encodeRx, h]

/-- A field of at most 8 bits, written as a record byte, leaves the bits above it zero and reads back. -/
theorem zeroExtend_byte_field {w : Nat} (v : BitVec w) (hw : w ≤ 8) :
    (v.zeroExtend 8 : Byte).toNat < 2 ^ w ∧ (v.zeroExtend 8 : Byte).extractLsb' 0 w = v := by
  have hlt := v.isLt
  have hle : 2 ^ w ≤ 2 ^ 8 := Nat.pow_le_pow_right (by decide) hw
  have hval : (v.zeroExtend 8 : Byte).toNat = v.toNat :=
    (BitVec.toNat_setWidth ..).trans (Nat.mod_eq_of_lt (by omega))
  refine ⟨by omega, BitVec.eq_of_toNat_eq ?_⟩
  rw [BitVec.extractLsb'_toNat, hval, Nat.shiftRight_zero, Nat.mod_eq_of_lt hlt]

/-- The record of a TX key, `tx_pos`, `tx_len` and a request decodes to what they select. -/
theorem decode_txRecord (t : BitVec 3) (pos len : BitVec 5) (cmd n : Byte) (d : Bytes16) :
    decode ([1, t.zeroExtend 8, pos.zeroExtend 8, len.zeroExtend 8, cmd, n] ++ d.toList) =
      .ok (decodeTx t pos len cmd n d) := by
  obtain ⟨ht, ht'⟩ := zeroExtend_byte_field t (by decide)
  obtain ⟨hpos, hpos'⟩ := zeroExtend_byte_field pos (by decide)
  obtain ⟨hlen, hlen'⟩ := zeroExtend_byte_field len (by decide)
  have h : decode ([1, t.zeroExtend 8, pos.zeroExtend 8, len.zeroExtend 8, cmd, n] ++ d.toList) =
      decodeTxRecord (t.zeroExtend 8 :: pos.zeroExtend 8 :: len.zeroExtend 8 :: cmd :: n :: d.toList) := rfl
  rw [h, decodeTxRecord, if_neg (by simp), if_neg (by omega), ht', hpos', hlen', bytes16OfList_toList]

/-- The encoder's record of a TX key and `tx_pos` decodes to what they select with no data and no request. -/
theorem decode_encodeTx (t : BitVec 3) (pos : BitVec 5) :
    decode (encodeTx t (pos.zeroExtend 8)) = .ok (decodeTx t pos 0 0 0 (Vector.replicate 16 0)) :=
  decode_txRecord t pos 0 0 0 (Vector.replicate 16 0)

/-- A command value without a row of its own is CMD_OTHER (R83). -/
theorem decodeFrameCmd_of_wellFormed (b : Byte) (h : (Instr.cmdOther b).wellFormed = true) :
    decodeFrameCmd b = .cmdOther b := by
  simp only [Instr.wellFormed, Bool.and_eq_true, bne_iff_ne] at h
  obtain ⟨hping, hkey⟩ := h
  rw [decodeFrameCmd, if_neg hping, if_neg hkey]

/-- Settles O3: per format, the record decodes to what its key and operands select. -/
theorem decodeOfEncodeIsTheOperation : Obligations.DecodeOfEncodeIsTheOperation := by
  unfold Obligations.DecodeOfEncodeIsTheOperation
  intro i hwf
  cases i with
  | rxIdle | reset | checksum | validate | txBuild | ping | cmdPing | cmdKeyEvent => rfl
  | s0Stx => exact decode_encodeRx_of_some (by simp)
  | s0Skip b => exact decode_encodeRx_of_some (by simpa [Instr.wellFormed] using hwf)
  | s1Cmd b => exact decode_encodeRx_of_some (by simp)
  | s2Len b => exact decode_encodeRx_of_some (by simp)
  | s3Data b => exact decode_encodeRx_of_some (by simp)
  | s4Etx => exact decode_encodeRx_of_some (by simp)
  | s4Abort b => exact decode_encodeRx_of_some (by simpa [Instr.wellFormed] using hwf)
  | s5Accept b => exact decode_encodeRx_of_some (by simp)
  | s5Reject b => exact decode_encodeRx_of_some (by simp)
  | txIdle => exact decode_encodeTx 0b000 0
  | txAccept cmd len data => exact decode_txRecord 0b010 0 0 cmd len data
  | txStall => exact decode_encodeTx 0b100 0
  | txByte => exact decode_encodeTx 0b101 0
  | txLast => exact decode_encodeTx 0b101 4
  | cmdOther b => exact congrArg Except.ok (decodeFrameCmd_of_wellFormed b hwf)

/-- Settles O4: each written record or table word is evaluated. -/
theorem writtenKeysDecode : Obligations.WrittenKeysDecode := by
  unfold Obligations.WrittenKeysDecode
  decide

/-! ### The rows of the RX table -/

theorem rxKey_inj {c c' : BitVec 3} {b b' : Byte} : rxKey c b = rxKey c' b' ↔ c = c' ∧ b = b' := by
  constructor
  · intro h
    exact ⟨by simpa using congrArg keyStage h, by simpa using congrArg keyByte h⟩
  · rintro ⟨rfl, rfl⟩
    rfl

theorem rxKey_toNat (c : BitVec 3) (b : Byte) : (rxKey c b).toNat = 256 * c.toNat + b.toNat := by
  rw [rxKey, BitVec.toNat_append, ← Nat.shiftLeft_add_eq_or_of_lt b.isLt, Nat.shiftLeft_eq, Nat.mul_comm]

/-- The mask of a row that fixes the stage alone. -/
theorem rxKey_and_stageMask (c : BitVec 3) (b : Byte) : rxKey c b &&& 0x700 = rxKey c 0 := by
  have hmask : (0x700 : BitVec 11) = rxKey (BitVec.allOnes 3) 0 := rfl
  rw [hmask, rxKey, rxKey, rxKey, BitVec.and_append, BitVec.and_allOnes]
  exact congrArg (c ++ ·) BitVec.and_zero

/-- The mask of a row that fixes stage and byte. -/
theorem and_fullMask (k : BitVec 11) : k &&& 0x7FF = k := BitVec.and_allOnes

/-- A row that fixes the stage alone: the lower priority of 30_encoding.md R91. -/
def stageRow (c : BitVec 3) (condition : Byte → Byte → Bool) (op : Byte → Instr) : RxRow :=
  ⟨rxKey c 0, 0x700, condition, 0, op⟩

/-- A row that fixes stage and byte: the higher priority of 30_encoding.md R91. -/
def byteRow (c : BitVec 3) (b : Byte) (op : Instr) : RxRow :=
  ⟨rxKey c b, 0x7FF, fun _ _ => true, 1, fun _ => op⟩

/-- R91's RX table by the kinds of its rows. -/
theorem rxRows_eq : rxRows =
    [ byteRow 0 STX .s0Stx, stageRow 0 (fun _ _ => true) .s0Skip, stageRow 1 (fun _ _ => true) .s1Cmd,
      stageRow 2 (fun _ _ => true) .s2Len, stageRow 3 (fun _ _ => true) .s3Data, byteRow 4 ETX .s4Etx,
      stageRow 4 (fun _ _ => true) .s4Abort, stageRow 5 (fun b sum => b == sum) .s5Accept,
      stageRow 5 (fun b sum => b != sum) .s5Reject ] := rfl

section
variable (c c' : BitVec 3) (b b' sum : Byte) (condition : Byte → Byte → Bool) (op : Byte → Instr) (i : Instr)

@[simp] theorem stageRow_op : (stageRow c condition op).op = op := rfl
@[simp] theorem stageRow_priority : (stageRow c condition op).priority = 0 := rfl
@[simp] theorem byteRow_op : (byteRow c b i).op b' = i := rfl
@[simp] theorem byteRow_priority : (byteRow c b i).priority = 1 := rfl

@[simp] theorem stageRow_selects :
    (stageRow c' condition op).selects (rxKey c b) sum = true ↔ c = c' ∧ condition b sum = true := by
  simp only [RxRow.selects, stageRow, rxKey_and_stageMask, keyByte_rxKey, Bool.and_eq_true, beq_iff_eq, rxKey_inj,
    and_true]

@[simp] theorem byteRow_selects : (byteRow c' b' i).selects (rxKey c b) sum = true ↔ c = c' ∧ b = b' := by
  simp only [RxRow.selects, byteRow, and_fullMask, Bool.and_true, beq_iff_eq, rxKey_inj]

end

/-- No row has a stage code above 5 (30_encoding.md R93). -/
theorem stage_le_of_selects {c : BitVec 3} {b sum : Byte} {r : RxRow} (hr : r ∈ rxRows)
    (h : r.selects (rxKey c b) sum = true) : c.toNat ≤ 5 := by
  simp only [rxRows_eq, List.mem_cons, List.not_mem_nil, or_false] at hr
  rcases hr with rfl | rfl | rfl | rfl | rfl | rfl | rfl | rfl | rfl <;>
    simp only [stageRow_selects, byteRow_selects] at h <;> obtain ⟨rfl, _⟩ := h <;> decide

/-- The decoder answers the operation of a selected row, and every other selected row has it too or has the lower
priority. -/
theorem exists_row_of_stage_le (c : BitVec 3) (b sum : Byte) (hc : c.toNat ≤ 5) :
    ∃ r ∈ rxRows, r.selects (rxKey c b) sum = true ∧ decodeRx true (rxKey c b) sum = some (r.op b) ∧
      ∀ q ∈ rxRows, q.selects (rxKey c b) sum = true → q.op b = r.op b ∨ q.priority < r.priority := by
  have hstage : c = 0 ∨ c = 1 ∨ c = 2 ∨ c = 3 ∨ c = 4 ∨ c = 5 := by
    revert c
    decide
  rw [rxRows_eq]
  rcases hstage with rfl | rfl | rfl | rfl | rfl | rfl
  · by_cases hb : b = STX <;> simp [hb]
  · simp
  · simp
  · simp
  · by_cases hb : b = ETX <;> simp [hb]
  · by_cases hb : b = sum <;> simp [hb]

/-! ### The rows of the TX table -/

/-- A TX key is its three inputs. -/
theorem exists_txKey (t : BitVec 3) : ∃ busy reqValid outReady, t = txKey busy reqValid outReady := by
  revert t
  decide

/-! The inputs whose key matches a pattern of R91's TX table under its mask. -/

section
variable (busy reqValid outReady : Bool)

@[simp] theorem txKey_and_eq_free_iff :
    txKey busy reqValid outReady &&& 0b110#3 = 0b000#3 ↔ busy = false ∧ reqValid = false := by
  decide +revert

@[simp] theorem txKey_and_eq_request_iff :
    txKey busy reqValid outReady &&& 0b110#3 = 0b010#3 ↔ busy = false ∧ reqValid = true := by
  decide +revert

@[simp] theorem txKey_and_eq_stall_iff :
    txKey busy reqValid outReady &&& 0b101#3 = 0b100#3 ↔ busy = true ∧ outReady = false := by
  decide +revert

@[simp] theorem txKey_and_eq_take_iff :
    txKey busy reqValid outReady &&& 0b101#3 = 0b101#3 ↔ busy = true ∧ outReady = true := by
  decide +revert

/-- The decoder answers the operation of a selected row, the only one up to the last position. -/
theorem exists_row_of_pos_le (pos len : BitVec 5) (cmd n : Byte) (d : Bytes16) (hpos : pos.toNat ≤ 4 + len.toNat) :
    ∃ r ∈ txRows, r.selects (txKey busy reqValid outReady) pos len = true ∧
      decodeTx (txKey busy reqValid outReady) pos len cmd n d = r.op cmd n d ∧
      ∀ q ∈ txRows, q.selects (txKey busy reqValid outReady) pos len = true → q.op cmd n d = r.op cmd n d := by
  cases busy with
  | false => cases reqValid <;> simp [txRows, TxRow.selects]
  | true =>
    cases outReady with
    | false => simp [txRows, TxRow.selects]
    | true =>
      rcases Nat.lt_or_eq_of_le hpos with hlt | hlast
      · simp [txRows, TxRow.selects, hlt, hlt.ne]
      · simp [txRows, TxRow.selects, hlast]

end

/-- Settles O1: each table by the fields of its key. -/
theorem everyKeySelectsExactlyOneRow : Obligations.EveryKeySelectsExactlyOneRow := by
  unfold Obligations.EveryKeySelectsExactlyOneRow
  constructor
  · intro k sum hk
    have hrow := exists_row_of_stage_le (keyStage k) (keyByte k) sum hk
    rwa [rxKey_fields] at hrow
  · intro t pos len cmd n d hpos
    obtain ⟨busy, reqValid, outReady, rfl⟩ := exists_txKey t
    exact exists_row_of_pos_le busy reqValid outReady pos len cmd n d hpos

/-- A stage code 6 or 7 selects no operation (30_encoding.md R93). -/
theorem decodeRx_of_lt_stage (c : BitVec 3) (b sum : Byte) (hc : 5 < c.toNat) :
    decodeRx true (rxKey c b) sum = none := by
  have hstage : c = 6 ∨ c = 7 := by
    revert c
    decide
  rcases hstage with rfl | rfl <;> simp [decodeRx]

/-- Settles O2: the key's stage field is above 5 there, and no stage has such a code. -/
theorem stageCodes6And7AreRefused : Obligations.StageCodes6And7AreRefused := by
  unfold Obligations.StageCodes6And7AreRefused
  constructor
  · intro k sum hk
    obtain ⟨c, b, rfl⟩ : ∃ c b, k = rxKey c b := ⟨keyStage k, keyByte k, (rxKey_fields k).symm⟩
    have hc : 5 < c.toNat := by
      have hb := b.isLt
      rw [rxKey_toNat] at hk
      omega
    refine ⟨fun r hr => Bool.eq_false_iff.2 fun h => ?_, decodeRx_of_lt_stage c b sum hc⟩
    have hle := stage_le_of_selects hr h
    omega
  · intro st b
    have hle := stageCode_le st
    have hb := b.isLt
    rw [rxKey_toNat]
    omega

end Sys2Proof

namespace Sys2Proof.Machine
open Config

/-! ### Placing an operation -/

/-- A byte placed in a stage is presented by the next line, a cycle without reset that selects what the key does. -/
theorem placeByte_selects {st : Stage} {b : Byte} {s t : State} {i : Instr} (hprog : t.program = s.program)
    (hdec : decodeRx true (rxKey (stageCode st) b) t.rx.sum = some i) :
    ∃ p, (placeByte st b t).program = .cycle p :: s.program ∧ p.rst = false ∧ selectRx p (placeByte st b t) = some i :=
  ⟨{ quietPorts with rxValid := true, rxByte := b }, congrArg (Line.cycle _ :: ·) hprog, rfl, hdec⟩

/-- A row of the RX table, placed, is the RX operation of the placed cycle. -/
theorem placeInstr_rxRow (i : Instr) (s : State) (hwf : i.wellFormed = true) (hi : isRxRow i = true) :
    ∃ p, (placeInstr i s).program = .cycle p :: s.program ∧ p.rst = false ∧
      selectRx p (placeInstr i s) = some i := by
  cases i with
  | rxIdle => exact ⟨quietPorts, rfl, rfl, rfl⟩
  | s0Stx => exact placeByte_selects rfl (by simp [stageCode])
  | s0Skip b => exact placeByte_selects rfl (by simpa [stageCode, Instr.wellFormed] using hwf)
  | s1Cmd b => exact placeByte_selects rfl (by simp [stageCode])
  | s2Len b => exact placeByte_selects rfl (by simp [stageCode])
  | s3Data b => exact placeByte_selects rfl (by simp [stageCode])
  | s4Etx => exact placeByte_selects rfl (by simp [stageCode])
  | s4Abort b => exact placeByte_selects rfl (by simpa [stageCode, Instr.wellFormed] using hwf)
  | s5Accept b => exact placeByte_selects rfl (by simp [stageCode])
  | s5Reject b =>
    have hdiffers : ¬ b = if s.rx.sum = b then b + 1 else s.rx.sum := by
      by_cases hsum : s.rx.sum = b
      · simp [hsum]
      · simpa [hsum] using Ne.symm hsum
    exact placeByte_selects rfl (by simpa [stageCode] using hdiffers)
  | txIdle | txAccept | txStall | txByte | txLast | reset | checksum | validate | txBuild | ping | cmdPing | cmdKeyEvent
  | cmdOther => cases hi

/-- A row of the TX table, placed, is the TX operation of the placed cycle. -/
theorem placeInstr_txRow (i : Instr) (s : State) (hi : isTxRow i = true) :
    ∃ p, (placeInstr i s).program = .cycle p :: s.program ∧ p.rst = false ∧ selectTx p (placeInstr i s) = i := by
  cases i with
  | txIdle => exact ⟨_, rfl, rfl, decodeTx_free ..⟩
  | txAccept cmd len data =>
    exact ⟨_, rfl, rfl, (decodeTx_request ..).trans (congrArg (Instr.txAccept cmd len) (unpack_packBytes data))⟩
  | txStall => exact ⟨_, rfl, rfl, decodeTx_stall ..⟩
  | txByte =>
    refine ⟨_, rfl, rfl, (decodeTx_take ..).trans (if_pos ?_)⟩
    show (if s.tx.pos.toNat < 4 + s.tx.len.toNat then s.tx.pos else 0).toNat < 4 + s.tx.len.toNat
    split
    · assumption
    · exact Nat.lt_of_lt_of_le (by decide) (Nat.le_add_right 4 _)
  | txLast =>
    refine ⟨_, rfl, rfl, (decodeTx_take ..).trans (if_neg ?_)⟩
    show ¬ (if s.tx.len.toNat ≤ MAX_DATA then s.tx.len + 4 else 4).toNat <
      4 + (if s.tx.len.toNat ≤ MAX_DATA then s.tx.len else 0).toNat
    by_cases hlen : s.tx.len.toNat ≤ MAX_DATA
    · have hpos : (s.tx.len + 4).toNat = s.tx.len.toNat + 4 := by
        rw [MAX_DATA] at hlen
        rw [BitVec.toNat_add]
        exact Nat.mod_eq_of_lt (by simp; omega)
      rw [if_pos hlen, if_pos hlen, hpos]
      omega
    · rw [if_neg hlen, if_neg hlen]
      decide
  | rxIdle | s0Stx | s0Skip | s1Cmd | s2Len | s3Data | s4Etx | s4Abort | s5Accept | s5Reject | reset | checksum
  | validate | txBuild | ping | cmdPing | cmdKeyEvent | cmdOther => cases hi

/-- No operation is a row of both tables. -/
theorem not_isTxRow_of_isRxRow {i : Instr} : isRxRow i = true → ¬ isTxRow i = true := by
  cases i <;> simp [isRxRow, isTxRow]

/-- Settles O5: by the table the row is of. -/
theorem everyKeyedRowCanRunNext : Obligations.EveryKeyedRowCanRunNext := by
  unfold Obligations.EveryKeyedRowCanRunNext
  intro i s hwf
  refine ⟨?_, fun hping => hping ▸ rfl⟩
  rintro (hrx | htx | rfl)
  · obtain ⟨p, hprog, hrst, hsel⟩ := placeInstr_rxRow i s hwf hrx
    refine ⟨p, hprog, fun _ => ⟨hrst, hsel⟩, fun htx => absurd htx (not_isTxRow_of_isRxRow hrx), ?_⟩
    rintro rfl
    cases hrx
  · obtain ⟨p, hprog, hrst, hsel⟩ := placeInstr_txRow i s htx
    refine ⟨p, hprog, fun hrx => absurd htx (not_isTxRow_of_isRxRow hrx), fun _ => ⟨hrst, hsel⟩, ?_⟩
    rintro rfl
    cases htx
  · exact ⟨_, rfl, nofun, nofun, fun _ => rfl⟩

/-! ### The vector ports -/

/-- Bit `j` of byte `i` of an unpacked port (30_encoding.md R90). -/
theorem getLsbD_unpackBytes (v : BitVec 128) (i j : Nat) (hi : i < 16) (hj : j < 8) :
    (unpackBytes v)[i].getLsbD j = v.getLsbD (8 * i + j) := by
  simp [unpackBytes, hj]

/-- Bit `8i + j` of a packed array (30_encoding.md R90). -/
theorem getLsbD_packBytes (d : Bytes16) (i j : Nat) (hi : i < 16) (hj : j < 8) :
    (packBytes d).getLsbD (8 * i + j) = d[i].getLsbD j := by
  rw [← getLsbD_unpackBytes _ i j hi hj, unpack_packBytes]

/-- Packing undoes unpacking: bit `m` is bit `m % 8` of byte `m / 8`. -/
theorem pack_unpackBytes (v : BitVec 128) : packBytes (unpackBytes v) = v := by
  apply BitVec.eq_of_getLsbD_eq
  intro m hm
  have hi : m / 8 < 16 := by omega
  have hj : m % 8 < 8 := by omega
  rw [← Nat.div_add_mod m 8, getLsbD_packBytes _ _ _ hi hj, getLsbD_unpackBytes _ _ _ hi hj]

/-- Settles O41: a bit of the port is a bit of its byte, both ways. -/
theorem vectorPortsPackByteIAtBits8i : Obligations.VectorPortsPackByteIAtBits8i :=
  ⟨getLsbD_packBytes, getLsbD_unpackBytes, pack_unpackBytes⟩

/-! ### A whole candidate frame -/

/-- STX, a command, a raw length and as many data bytes as it takes lead to the byte that should be ETX. -/
theorem Candidate.feed_untilEtx (c n : Byte) (d : List Byte) (hd : d.length = min n.toNat MAX_DATA) :
    Candidate.none.feed ([STX, c, n] ++ d) = (.etx (checksum ([STX, c, n] ++ d)) c d, []) := by
  have hheader : Candidate.none.feed [STX, c, n] = (collect (STX + c + n) c (min n.toNat MAX_DATA) [], []) := by
    simp [feed_cons, step]
  rw [feed_append, hheader, feed_collect _ _ _ _ _ (by simp [hd])]
  simp [collect, hd, BitVec.add_assoc]

/-- The two bytes after the data: the frame is emitted exactly if they are ETX and the running sum (41_rx_parser.md R127
to R130). -/
theorem Candidate.feed_etx (sum c x y : Byte) (d : List Byte) :
    ((Candidate.etx sum c d).feed [x, y]).2 = if x = ETX ∧ y = sum + ETX then [⟨c, d⟩] else [] := by
  by_cases hx : x = ETX
  · by_cases hy : y = sum + ETX <;> simp [feed_cons, step, hx, hy]
  · by_cases hy : y = STX <;> simp [feed_cons, step, hx, hy]

/-- A frame with as many data bytes as its raw length takes is emitted exactly if ETX and the checksum of all bytes before
follow (30_encoding.md R82, 40_checksum.md R115). -/
theorem Candidate.feed_frame (c n x y : Byte) (d : List Byte) (hd : d.length = min n.toNat MAX_DATA) :
    (Candidate.none.feed ([STX, c, n] ++ d ++ [x, y])).2 =
      if x = ETX ∧ y = checksum ([STX, c, n] ++ d ++ [ETX]) then [⟨c, d⟩] else [] := by
  have hsum : checksum ([STX, c, n] ++ d ++ [ETX]) = checksum ([STX, c, n] ++ d) + ETX := by
    rw [checksum_append]
    simp
  rw [feed_append, feed_untilEtx c n d hd, hsum]
  exact feed_etx _ c x y d

/-- Settles O47: with a raw length above 16 the parser takes 16 data bytes. -/
theorem oversizedLenTakesSixteenDataBytes : Obligations.OversizedLenTakesSixteenDataBytes := by
  unfold Obligations.OversizedLenTakesSixteenDataBytes
  intro c n x y d r hr hn hd
  have htarget : d.length = min n.toNat MAX_DATA := by
    rw [hd]
    exact (Nat.min_eq_right hn.le).symm
  rw [(rxFeed_of_stx r _ hr).1]
  exact Candidate.feed_frame c n x y d htarget

/-! ### Steps, line by line -/

/-- A step on a cycle line is that cycle's edge. -/
theorem step_cycle {s : State} {p : PortIn} {k : List Line} (h : s.program = .cycle p :: k) :
    step s = runEdge p (s.setProgram k) := by
  simp [step, runNext, h]

/-- Settles O6: the edge of the cycle, and what its RX operation answers. -/
theorem stepRunsTheSelectedOperations : Obligations.StepRunsTheSelectedOperations := by
  unfold Obligations.StepRunsTheSelectedOperations
  intro s p k hprog
  rw [step_cycle hprog]
  refine ⟨fun hrst => if_pos hrst, fun hrst => ?_⟩
  obtain ⟨rxOp, hsel, hexec⟩ := exec_selectRx p (s.setProgram k)
  refine ⟨rxOp, _, hsel, hexec, ?_⟩
  simp only [runEdge, hrst, hsel, hexec]
  rfl

/-- The edge of a cycle without reset whose request the ports hold: the request is presented after it only if it waits
(30_encoding.md R94). -/
theorem heldEdge_of_held {p : PortIn} {s : State} (hrst : p.rst = false) (hreq : p.reqValid = s.env.reqValid) :
    heldEdge p s = runEdge p (s.setEnv { s.env with reqValid := s.env.reqValid && s.tx.busy }) := by
  rw [heldEdge, endAccepted, hrst, hreq, txReqReady]
  rcases s with ⟨rx, fo, ⟨busy, _, _, _, _, _, _⟩, ⟨reqValid, _, _, _, _⟩, _, _, _⟩
  cases reqValid <;> cases busy <;> rfl

/-- A reset edge ends no presentation (30_encoding.md R94). -/
theorem heldEdge_of_rst {p : PortIn} {s : State} (hrst : p.rst = true) : heldEdge p s = runEdge p s := by
  simp [heldEdge, endAccepted, hrst]

/-- A data byte of a request line on the request data port, 0x00 where the line names none (30_encoding.md R94). -/
theorem extract_portData (l : List Byte) (i : Nat) (h : i < 16) :
    (portData l).extractLsb' (8 * i) 8 = l.getD i 0x00 := by
  rw [portData, extract_packBytes _ i h, bytes16OfList, Vector.getElem_ofFn]

/-- Settles O7: line by line. -/
theorem stimulusLinesDoWhatTheNotationSays : Obligations.StimulusLinesDoWhatTheNotationSays := by
  unfold Obligations.StimulusLinesDoWhatTheNotationSays
  intro s k idle sent
  refine ⟨fun h => ?rst, fun b bs h => ?rx, fun h => ?rxDone, fun n h => ?idle, fun h => ?idleDone, fun c n d h => ?txReq,
    fun h => ?ping, fun h => ?withdraw, fun h => ?sinkHold, fun h => ?sinkGo, fun h => ?noLine⟩ <;>
    simp only [step, runNext, h]
  case rst => exact heldEdge_of_rst rfl
  case rx | idle | noLine => exact heldEdge_of_held rfl rfl
  case txReq =>
    refine ⟨present c n (portData d) (s.setProgram k), rfl, ⟨rfl, rfl, rfl⟩, rfl, rfl, ?_⟩
    simp only [present_env, true_and]
    exact ⟨rfl, extract_portData d⟩

/-! ### Command values -/

/-- Settles O19: the command rule, whichever of the rows names the value. -/
theorem everyCommandValueIsStoredUnchanged : Obligations.EveryCommandValueIsStoredUnchanged := by
  unfold Obligations.EveryCommandValueIsStoredUnchanged
  intro c s
  refine ⟨rxSilent (rxTakeCmd c s.rx) s, rfl, rfl, rfl, rfl, rfl, rfl, ⟨rfl, rfl, rfl, rfl⟩, ⟨rfl, rfl, rfl, rfl, rfl⟩,
    rfl, ?_, ?_, rfl⟩
  · rintro rfl
    rfl
  · rintro rfl
    rfl

end Sys2Proof.Machine

namespace Sys2Proof.Machine
open Config

/-! ### The checksum over byte sequences (40_checksum.md R111, R116) -/

/-- Settles O31: `checksum_append`, and the checksum of one byte is that byte. -/
theorem checksumSplitsOverConcatenation : Obligations.ChecksumSplitsOverConcatenation := by
  unfold Obligations.ChecksumSplitsOverConcatenation
  intro a b x
  exact ⟨checksum_append a b, by simp [checksum_append]⟩

/-- The order of the bytes does not matter: their sum is that of their reordering. -/
theorem checksum_perm {a b : List Byte} (h : a.Perm b) : checksum a = checksum b := by
  have hsum : byteSum a = byteSum b := (h.map BitVec.toNat).sum_eq
  rw [checksum, checksum, hsum]

/-- With the bytes around it fixed, the checksum is one-to-one in a byte. -/
theorem checksum_change_iff (a b : List Byte) (x y : Byte) :
    checksum (a ++ x :: b) = checksum (a ++ y :: b) ↔ x = y := by
  simp only [checksum_append, checksum_cons]
  rw [add_right_inj, add_left_inj]

/-- A change of one byte is undone by the opposite change of another. -/
theorem checksum_balanced (a b c : List Byte) (x y k : Byte) :
    checksum (a ++ (x + k) :: (b ++ (y - k) :: c)) = checksum (a ++ x :: (b ++ y :: c)) := by
  simp only [checksum_append, checksum_cons]
  ring

/-- Settles O32: reordering, one changed byte, and a balanced change. -/
theorem checksumDetectsOneChangedByte : Obligations.ChecksumDetectsOneChangedByte := by
  unfold Obligations.ChecksumDetectsOneChangedByte
  exact ⟨fun _ _ => checksum_perm, checksum_change_iff, checksum_balanced⟩

/-! ### The running checksum of a candidate (40_checksum.md R112) -/

/-- The byte that takes the parser out of stage 0 is STX, and `rx_sum` starts at it (41_rx_parser.md R123). -/
theorem rxStep_sum_of_started {r : RxRegs} {b : Byte} (h : r.stage = .stx) (hnext : (rxStep r b).1.stage ≠ .stx) :
    (rxStep r b).1.sum = b := by
  rw [rxStep_stx r b h] at hnext ⊢
  by_cases hb : b = STX
  · simp [hb]
  · simp [hb, h] at hnext

/-- A byte that does not end the candidate in progress is added to `rx_sum`. -/
theorem rxStep_sum_of_inProgress {r : RxRegs} {b : Byte} (h : r.stage ≠ .stx) (hnext : (rxStep r b).1.stage ≠ .stx) :
    (rxStep r b).1.sum = r.sum + b := by
  cases hs : r.stage with
  | stx => exact absurd hs h
  | cmd | len | data => simp [rxStep_fst_sum, hs]
  | etx =>
    by_cases hb : b = ETX
    · simp [rxStep_fst_sum, hs, hb]
    · simp [rxStep_etx r b hs, hb] at hnext
  | chk => simp [rxStep_chk r b hs] at hnext

/-- One candidate is in progress all along `bytes`: after none of them, nor before the first, is the parser in
stage 0. -/
def StaysInProgress (r : RxRegs) (bytes : List Byte) : Prop :=
  ∀ n ≤ bytes.length, (rxFeed r (bytes.take n)).1.stage ≠ .stx

theorem StaysInProgress.stage_ne {r : RxRegs} {bytes : List Byte} (h : StaysInProgress r bytes) : r.stage ≠ .stx :=
  h 0 (Nat.zero_le _)

/-- The stages along `b :: bs` are the first one and those along `bs`. -/
theorem StaysInProgress.tail {r : RxRegs} {b : Byte} {bs : List Byte} (h : StaysInProgress r (b :: bs)) :
    StaysInProgress (rxStep r b).1 bs :=
  fun n hn => h (n + 1) (Nat.succ_le_succ hn)

/-- Every byte of the candidate is added to `rx_sum`. -/
theorem StaysInProgress.sum_eq {r : RxRegs} {bytes : List Byte} (h : StaysInProgress r bytes) :
    (rxFeed r bytes).1.sum = r.sum + checksum bytes := by
  induction bytes generalizing r with
  | nil => simp
  | cons b bs ih =>
    calc (rxFeed r (b :: bs)).1.sum
        = (rxStep r b).1.sum + checksum bs := ih h.tail
      _ = r.sum + b + checksum bs := by rw [rxStep_sum_of_inProgress h.stage_ne h.tail.stage_ne]
      _ = r.sum + checksum (b :: bs) := by rw [checksum_cons, BitVec.add_assoc]

/-- Settles O48: the first byte is the STX that `rx_sum` starts at, the others are added to it. -/
theorem rxSumIsTheChecksumOfTheCandidate : Obligations.RxSumIsTheChecksumOfTheCandidate := by
  unfold Obligations.RxSumIsTheChecksumOfTheCandidate
  intro bytes r hr hne hstages
  cases bytes with
  | nil => exact absurd rfl hne
  | cons b bs =>
    have hrest : StaysInProgress (rxStep r b).1 bs :=
      fun n hn => hstages (n + 1) (Nat.le_add_left 1 n) (Nat.succ_le_succ hn)
    calc (rxFeed r (b :: bs)).1.sum
        = (rxStep r b).1.sum + checksum bs := hrest.sum_eq
      _ = checksum (b :: bs) := by rw [rxStep_sum_of_started hr hrest.stage_ne, checksum_cons]

/-! ### The function rows CHECKSUM and VALIDATE (40_checksum.md R110, R113) -/

/-- Recording a function row's value writes no register, no port and no stimulus line (log 10). -/
theorem sameButAnswer_setAnswer (s : State) (a : Answer) : SameButAnswer s (s.setAnswer a) :=
  ⟨⟨rfl, rfl, rfl⟩, rfl, rfl, rfl⟩

theorem exec_checksum (l : List Byte) (s : State) :
    exec (.checksum l) s = .next (s.setAnswer (.byte (checksum l))) := rfl

theorem exec_validate (b : Byte) (s : State) :
    exec (.validate b) s = .next (s.setAnswer (.valid (chkValid b s.rx.sum))) := rfl

/-- The verdict VALIDATE records is the comparison. -/
theorem chkValid_of_answer {b : Byte} {s t : State} {v : Bool} (hexec : exec (.validate b) s = .next t)
    (hanswer : t.answer = some (.valid v)) : chkValid b s.rx.sum = v := by
  rw [exec_validate] at hexec
  obtain rfl := Host.Outcome.next.inj hexec
  exact Answer.valid.inj (Option.some.inj hanswer)

/-- In stage 5 the comparison selects the row (30_encoding.md R91). -/
theorem selectRx_of_chkValid {p : PortIn} {s : State} {v : Bool} (hvalid : p.rxValid = true) (hs : s.rx.stage = .chk)
    (hv : chkValid p.rxByte s.rx.sum = v) :
    selectRx p s = some (if v then .s5Accept p.rxByte else .s5Reject p.rxByte) := by
  rw [selectRx, hvalid, hs, ← hv]
  exact decodeRx_chk _ _

/-- Settles O28: `checksum_toNat`, and the answer field alone is written. -/
theorem checksumIsTheSumModulo256 : Obligations.ChecksumIsTheSumModulo256 := by
  unfold Obligations.ChecksumIsTheSumModulo256
  intro l s
  exact ⟨_, checksum l, exec_checksum l s, State.setAnswer_answer s _, checksum_toNat l, sameButAnswer_setAnswer s _⟩

/-- Settles O29: the verdict is the comparison that selects the row of stage 5. -/
theorem validateComparesChkWithRxSum : Obligations.ValidateComparesChkWithRxSum := by
  unfold Obligations.ValidateComparesChkWithRxSum
  refine ⟨fun b s => ?verdict, fun p s t hvalid hs hexec => ?split⟩
  case verdict =>
    exact ⟨_, chkValid b s.rx.sum, exec_validate b s, State.setAnswer_answer s _, chkValid_iff b s.rx.sum,
      sameButAnswer_setAnswer s _⟩
  case split =>
    exact ⟨fun h => selectRx_of_chkValid hvalid hs (chkValid_of_answer hexec h),
      fun h => selectRx_of_chkValid hvalid hs (chkValid_of_answer hexec h)⟩

end Sys2Proof.Machine

/-! The statements of 41_rx_parser.md: what each RX operation does, the invariant of every run, and what the bytes
consumed make of the parser. -/

namespace Sys2Proof.Machine
open Config

/-! ### The invariant of every run (41_rx_parser.md R136, 10_state.md R24, R33, R35) -/

theorem RxInv.reset : RxInv RxRegs.reset where
  len_le := Nat.zero_le _
  cnt_le := Nat.le_refl 0
  in_data := nofun
  after_data := fun _ => rfl

theorem FoInv.reset : FoInv FoRegs.reset where
  len_le := Nat.zero_le _
  zero_fill := fun _ _ => by simp [FoRegs.reset]

theorem TxInv.reset : TxInv TxRegs.reset where
  len_le := Nat.zero_le _
  pos_le := Nat.zero_le _
  chk_eq := nofun

/-- In stage 3 the invariant leaves room for the next data byte. -/
theorem RxInv.hasRoom {r : RxRegs} (h : RxInv r) : r.HasRoom := fun hs => ⟨h.in_data hs, h.len_le⟩

/-- In a stage that reads neither count nor length the invariant is about those two registers alone. -/
theorem RxInv.of_stage {r q : RxRegs} (h : RxInv r) (hlen : q.len = r.len) (hcnt : q.cnt = r.cnt)
    (hs : q.stage = .stx ∨ q.stage = .cmd ∨ q.stage = .len) : RxInv q where
  len_le := hlen ▸ h.len_le
  cnt_le := hlen ▸ hcnt ▸ h.cnt_le
  in_data := fun hd => by simp [hd] at hs
  after_data := fun hd => by rcases hd with hd | hd <;> simp [hd] at hs

/-- The length rule (41_rx_parser.md R125): no byte is counted yet, and stage 3 is entered only if one is to come. -/
theorem RxInv.rxTakeLen (r : RxRegs) (b : Byte) : RxInv (rxTakeLen b r) where
  len_le := clampLen_le b
  cnt_le := Nat.zero_le _
  in_data := fun hs => by
    have hne : clampLen b ≠ 0 := fun h0 => by simp [h0] at hs
    exact Nat.pos_of_ne_zero fun h0 => hne (BitVec.eq_of_toNat_eq h0)
  after_data := fun hs => by
    by_contra hne
    have h0 : ¬ clampLen b = 0 := fun h0 => hne h0.symm
    rw [rxTakeLen_stage, if_neg h0] at hs
    simp at hs

/-- The data rule (41_rx_parser.md R126): the count grows by one, and stage 3 is left when it reaches the length. -/
theorem RxInv.rxTakeData {r : RxRegs} (h : RxInv r) (hs : r.stage = .data) (b : Byte) : RxInv (rxTakeData b r) := by
  obtain ⟨hsucc, hlast⟩ := h.hasRoom.cnt_succ hs
  have hlt := h.in_data hs
  refine ⟨h.len_le, ?cnt_le, fun hd => ?in_data, fun hd => ?after_data⟩
  case cnt_le =>
    rw [rxTakeData_cnt, hsucc]
    exact hlt
  case in_data =>
    have hne : ¬ r.cnt.toNat + 1 = r.len.toNat := fun hl => by
      rw [rxTakeData_stage, if_pos (hlast.2 hl)] at hd
      cases hd
    rw [rxTakeData_cnt, hsucc, rxTakeData_len]
    omega
  case after_data =>
    by_contra hne
    have hne' : ¬ r.cnt + 1 = r.len := hne
    rw [rxTakeData_stage, if_neg hne'] at hd
    simp at hd

/-- One byte keeps the parser's part. -/
theorem RxInv.rxStep {r : RxRegs} (h : RxInv r) (b : Byte) : RxInv (rxStep r b).1 := by
  cases hs : r.stage with
  | stx =>
    rw [rxStep_stx r b hs]
    dsimp only
    split_ifs
    · exact h.of_stage rfl rfl (by simp)
    · exact h
  | cmd =>
    rw [rxStep_cmd r b hs]
    exact h.of_stage rfl rfl (by simp)
  | len =>
    rw [rxStep_len r b hs]
    exact .rxTakeLen r b
  | data =>
    rw [rxStep_data r b hs]
    exact h.rxTakeData hs b
  | etx =>
    rw [rxStep_etx r b hs]
    dsimp only
    split_ifs
    · exact ⟨h.len_le, h.cnt_le, nofun, fun _ => h.after_data (.inl hs)⟩
    · exact h.of_stage rfl rfl (by simp)
  | chk =>
    rw [rxStep_chk r b hs]
    exact h.of_stage rfl rfl (by simp)

theorem FoInv.foQuiet {fo : FoRegs} (h : FoInv fo) : FoInv (foQuiet fo) := ⟨h.len_le, h.zero_fill⟩

/-- An emission keeps the frame outputs' part: the length is the parser's, the fill beyond it zero (10_state.md R34). -/
theorem FoInv.foEmit {r : RxRegs} (h : RxInv r) : FoInv (foEmit r) :=
  ⟨h.len_le, fun i hi => foEmit_zero r i i.isLt hi⟩

theorem TxInv.txQuiet {t : TxRegs} (h : TxInv t) : TxInv (txQuiet t) := ⟨h.len_le, h.pos_le, h.chk_eq⟩

theorem TxInv.txRelease {t : TxRegs} (h : TxInv t) : TxInv (txRelease t) := ⟨h.len_le, h.pos_le, nofun⟩

/-- An acceptance computes the checksum of what is sent (40_checksum.md R114). -/
theorem TxInv.txLatch (cmd n : Byte) (d : Bytes16) (t : TxRegs) : TxInv (txLatch cmd n d t) :=
  ⟨clampLen_le n, Nat.zero_le _, fun _ => rfl⟩

/-- Before the last byte there is a next position. -/
theorem TxInv.txAdvance {t : TxRegs} (h : TxInv t) (hpos : t.pos.toNat < 4 + t.len.toNat) : TxInv (txAdvance t) := by
  refine ⟨h.len_le, ?_, h.chk_eq⟩
  have hlen : t.len.toNat ≤ 16 := h.len_le
  have hsucc : (t.pos + 1).toNat = t.pos.toNat + 1 := by simp [BitVec.toNat_add]; omega
  rw [txAdvance_pos, hsucc]
  exact hpos

/-- The TX operation of an edge keeps the TX framer's part. -/
theorem TxInv.txSide {s : State} (h : TxInv s.tx) (p : PortIn) : TxInv (txSide p s) := by
  unfold Machine.txSide
  split_ifs with hbusy hready hpos hreq
  · exact h.txAdvance hpos
  · exact h.txRelease
  · exact h.txQuiet
  · exact .txLatch _ _ _ _
  · exact h.txQuiet

theorem Inv.reset : Inv State.reset := ⟨.reset, .reset, .reset⟩

/-- Every edge keeps the invariant. -/
theorem Inv.edgeNext {s : State} (h : Inv s) (p : PortIn) : Inv (edgeNext p s) := by
  cases hrst : p.rst with
  | true =>
    obtain ⟨hrx, hfo, htx⟩ := edgeNext_rst p s hrst
    exact ⟨hrx ▸ .reset, hfo ▸ .reset, htx ▸ .reset⟩
  | false =>
    refine ⟨?rx, ?fo, edgeNext_tx p s hrst ▸ h.tx.txSide p⟩
    case rx =>
      rw [edgeNext_rx p s hrst]
      split_ifs
      · exact h.rx.rxStep _
      · exact h.rx
    case fo =>
      rw [edgeNext_fo p s hrst]
      split_ifs
      · exact .foEmit h.rx
      · exact h.fo.foQuiet

/-- Settles O34: part by part. -/
theorem invariantHoldsAtReset : Obligations.InvariantHoldsAtReset := Inv.reset

/-- Settles O33: a step keeps every register, or is an edge, which keeps the invariant. -/
theorem everyStepKeepsTheInvariant : Obligations.EveryStepKeepsTheInvariant := by
  unfold Obligations.EveryStepKeepsTheInvariant
  intro s t h hstep
  rcases step_cases s t hstep with ⟨hrx, hfo, htx, _⟩ | ⟨p, s', hrx, hfo, htx, _, rfl⟩
  · exact ⟨hrx ▸ h.rx, hfo ▸ h.fo, htx ▸ h.tx⟩
  · have h' : Inv s' := ⟨hrx ▸ h.rx, hfo ▸ h.fo, htx ▸ h.tx⟩
    exact edgeNext_eq p s' ▸ h'.edgeNext p

/-! ### Selection of the RX operations (30_encoding.md R91, R92) -/

/-- The row of the RX table that a presented byte selects in a stage. -/
def rowOf (st : Stage) (b sum : Byte) : Instr :=
  match st with
  | .stx => if b = STX then .s0Stx else .s0Skip b
  | .cmd => .s1Cmd b
  | .len => .s2Len b
  | .data => .s3Data b
  | .etx => if b = ETX then .s4Etx else .s4Abort b
  | .chk => if b = sum then .s5Accept b else .s5Reject b

/-- The stage of a row that takes a byte. -/
def stageOfRow : Instr → Option Stage
  | .s0Stx | .s0Skip _ => some .stx
  | .s1Cmd _ => some .cmd
  | .s2Len _ => some .len
  | .s3Data _ => some .data
  | .s4Etx | .s4Abort _ => some .etx
  | .s5Accept _ | .s5Reject _ => some .chk
  | _ => none

theorem stageOfRow_rowOf (st : Stage) (b sum : Byte) : stageOfRow (rowOf st b sum) = some st := by
  cases st with
  | stx | etx | chk => unfold rowOf; dsimp only; split_ifs <;> rfl
  | cmd | len | data => rfl

section
variable {p : PortIn} {s : State}

theorem selectRx_of_byte (h : p.rxValid = true) : selectRx p s = some (rowOf s.rx.stage p.rxByte s.rx.sum) := by
  rw [selectRx, h]
  cases s.rx.stage <;> simp [stageCode, rowOf]

theorem selectRx_of_noByte (h : p.rxValid = false) : selectRx p s = some .rxIdle := by
  rw [selectRx, h]
  exact decodeRx_idle _ _

/-- RX_IDLE is no row of a stage. -/
theorem selectRx_eq_rxIdle_iff : selectRx p s = some .rxIdle ↔ p.rxValid = false := by
  refine ⟨fun h => ?_, selectRx_of_noByte⟩
  by_contra hvalid
  rw [selectRx_of_byte (by simpa using hvalid)] at h
  have hstage := stageOfRow_rowOf s.rx.stage p.rxByte s.rx.sum
  rw [Option.some.inj h] at hstage
  cases hstage

/-- A row that takes a byte is selected in its own stage alone. -/
theorem selectRx_eq_iff {i : Instr} {st : Stage} (hi : stageOfRow i = some st) :
    selectRx p s = some i ↔ p.rxValid = true ∧ s.rx.stage = st ∧ rowOf st p.rxByte s.rx.sum = i := by
  cases hvalid : p.rxValid with
  | false =>
    rw [selectRx_of_noByte hvalid]
    simp only [Option.some.injEq, Bool.false_eq_true, false_and, iff_false]
    rintro rfl
    cases hi
  | true =>
    rw [selectRx_of_byte hvalid, Option.some.injEq]
    constructor
    · rintro rfl
      have hst := Option.some.inj ((stageOfRow_rowOf _ _ _).symm.trans hi)
      exact ⟨rfl, hst, by rw [hst]⟩
    · rintro ⟨_, rfl, h⟩
      exact h

end

/-! The rows of the stages that compare the byte. -/

section
variable (b b' sum : Byte)

theorem rowOf_stx_eq_s0Stx_iff : rowOf .stx b sum = .s0Stx ↔ b = STX := by
  simp [rowOf]

theorem rowOf_stx_eq_s0Skip_iff : rowOf .stx b sum = .s0Skip b' ↔ b = b' ∧ b' ≠ STX := by
  by_cases hb : b = b' <;> simp [rowOf, ite_eq_iff, hb]

theorem rowOf_etx_eq_s4Etx_iff : rowOf .etx b sum = .s4Etx ↔ b = ETX := by
  simp [rowOf]

theorem rowOf_etx_eq_s4Abort_iff : rowOf .etx b sum = .s4Abort b' ↔ b = b' ∧ b' ≠ ETX := by
  by_cases hb : b = b' <;> simp [rowOf, ite_eq_iff, hb]

theorem rowOf_chk_eq_s5Accept_iff : rowOf .chk b sum = .s5Accept b' ↔ b = b' ∧ b' = sum := by
  by_cases hb : b = b' <;> simp [rowOf, ite_eq_iff, hb]

theorem rowOf_chk_eq_s5Reject_iff : rowOf .chk b sum = .s5Reject b' ↔ b = b' ∧ b' ≠ sum := by
  by_cases hb : b = b' <;> simp [rowOf, ite_eq_iff, hb]

end

/-! ### The statements about the RX operations (41_rx_parser.md R121 to R130) -/

/-- An operation that emits nothing holds the last frame (10_state.md R33) and writes nothing outside the RX side. -/
theorem rxSilent_frame (r : RxRegs) (s : State) : FoHeld s (rxSilent r s) ∧ SameOutsideRx s (rxSilent r s) :=
  ⟨⟨rfl, rfl, rfl, rfl⟩, rfl, rfl, rfl, rfl, rfl⟩

/-- A cycle without reset and without a byte ends the pulse and keeps the rest of the RX side (41_rx_parser.md R121). -/
theorem edgeNext_of_noByte {p : PortIn} (s : State) (hrst : p.rst = false) (hvalid : p.rxValid = false) :
    (edgeNext p s).rx = s.rx ∧ (edgeNext p s).fo = foQuiet s.fo := by
  rw [edgeNext_rx p s hrst, edgeNext_fo p s hrst]
  simp [hvalid]

/-- Any number of such cycles keeps the parser registers and the held frame. -/
theorem runCycles_of_noByte (ps : List PortIn) (s : State) (hrst : NoReset ps) (hvalid : ∀ p ∈ ps, p.rxValid = false) :
    (runCycles ps s).rx = s.rx ∧ (runCycles ps s).fo.cmd = s.fo.cmd ∧ (runCycles ps s).fo.len = s.fo.len ∧
      (runCycles ps s).fo.data = s.fo.data := by
  induction ps generalizing s with
  | nil => exact ⟨rfl, rfl, rfl, rfl⟩
  | cons p ps ih =>
    obtain ⟨hp, hps⟩ := List.forall_mem_cons.1 hrst
    obtain ⟨hv, hvs⟩ := List.forall_mem_cons.1 hvalid
    obtain ⟨hrx, hfo⟩ := edgeNext_of_noByte s hp hv
    have hrest := ih (edgeNext p s) hps hvs
    rw [hrx, hfo] at hrest
    exact hrest

/-- Settles O9: the row without a byte, its effect, and the induction over idle cycles. -/
theorem rxIdleClearsOnlyFoValid : Obligations.RxIdleClearsOnlyFoValid := by
  unfold Obligations.RxIdleClearsOnlyFoValid
  exact ⟨fun _ _ => selectRx_eq_rxIdle_iff,
    fun s => ⟨rxSilent s.rx s, rfl, rfl, rxSilent_frame _ s⟩, runCycles_of_noByte⟩

/-- Settles O10: the row of stage 0 for any byte but STX writes no parser register. -/
theorem s0SkipDiscardsTheByte : Obligations.S0SkipDiscardsTheByte := by
  unfold Obligations.S0SkipDiscardsTheByte
  refine ⟨fun p s b => ?selection, fun b s => ?effect⟩
  case selection =>
    rw [selectRx_eq_iff (st := .stx) rfl, rowOf_stx_eq_s0Skip_iff]
    rfl
  case effect => exact ⟨rxSilent s.rx s, rfl, rfl, rxSilent_frame _ s⟩

/-- Settles O11: the row of stage 0 for STX writes what `rxStart` does. -/
theorem s0StxStartsACandidate : Obligations.S0StxStartsACandidate := by
  unfold Obligations.S0StxStartsACandidate
  refine ⟨fun p s => ?selection, fun s => ?effect⟩
  case selection =>
    rw [selectRx_eq_iff (st := .stx) rfl, rowOf_stx_eq_s0Stx_iff]
    rfl
  case effect =>
    exact ⟨rxSilent (rxStart s.rx) s, rfl, rfl, rfl, rfl, rfl, rfl, rfl, rxSilent_frame _ s⟩

/-- Settles O12: the one row of stage 1 writes what `rxTakeCmd` does. -/
theorem s1CmdTakesTheCommand : Obligations.S1CmdTakesTheCommand := by
  unfold Obligations.S1CmdTakesTheCommand
  refine ⟨fun p s b => ?selection, fun b s => ?effect⟩
  case selection =>
    rw [selectRx_eq_iff (st := .cmd) rfl]
    simp [rowOf]
  case effect =>
    exact ⟨rxSilent (rxTakeCmd b s.rx) s, rfl, rfl, rfl, rfl, rfl, rfl, rfl, rxSilent_frame _ s⟩

/-- Settles O13: the one row of stage 2 writes what `rxTakeLen` does, and only the byte 0 is clamped to 0. -/
theorem s2LenClampsTheLength : Obligations.S2LenClampsTheLength := by
  unfold Obligations.S2LenClampsTheLength
  refine ⟨fun p s b => ?selection, fun b s => ?effect⟩
  case selection =>
    rw [selectRx_eq_iff (st := .len) rfl]
    simp [rowOf]
  case effect =>
    have hzero := clampLen_eq_zero b
    exact ⟨rxSilent (rxTakeLen b s.rx) s, rfl, clampLen_toNat b, rfl, rfl, fun h => if_pos (hzero.2 h),
      fun h => if_neg (mt hzero.1 h), rfl, rfl, rxSilent_frame _ s⟩

/-- Settles O14: the one row of stage 3 writes what `rxTakeData` does; the count is below a length of at most 16. -/
theorem s3DataStoresTheByte : Obligations.S3DataStoresTheByte := by
  unfold Obligations.S3DataStoresTheByte
  refine ⟨fun p s b => ?selection, fun s h hs => ?index, fun b s => ?effect⟩
  case selection =>
    rw [selectRx_eq_iff (st := .data) rfl]
    simp [rowOf]
  case index =>
    have hlt := h.in_data hs
    have hlen : s.rx.len.toNat ≤ 16 := h.len_le
    omega
  case effect =>
    refine ⟨rxSilent (rxTakeData b s.rx) s, rfl, fun i hi => ?_, rfl, rfl, fun h => if_pos h, fun h => if_neg h, rfl, rfl,
      rxSilent_frame _ s⟩
    simp [Vector.getElem_setIfInBounds, eq_comm]

/-- Settles O15: the row of stage 4 for ETX writes what `rxTakeEtx` does. -/
theorem s4EtxEndsTheChecksumRange : Obligations.S4EtxEndsTheChecksumRange := by
  unfold Obligations.S4EtxEndsTheChecksumRange
  refine ⟨fun p s => ?selection, fun s => ?effect⟩
  case selection =>
    rw [selectRx_eq_iff (st := .etx) rfl, rowOf_etx_eq_s4Etx_iff]
    rfl
  case effect =>
    exact ⟨rxSilent (rxTakeEtx s.rx) s, rfl, rfl, rfl, rfl, rfl, rfl, rfl, rxSilent_frame _ s⟩

/-- Settles O16: the row of stage 4 for any byte but ETX drops the candidate. -/
theorem s4AbortDropsTheCandidate : Obligations.S4AbortDropsTheCandidate := by
  unfold Obligations.S4AbortDropsTheCandidate
  refine ⟨fun p s b => ?selection, fun b s => ?effect⟩
  case selection =>
    rw [selectRx_eq_iff (st := .etx) rfl, rowOf_etx_eq_s4Abort_iff]
    rfl
  case effect => exact ⟨rxSilent (rxDrop s.rx) s, rfl, rfl, rxSilent_frame _ s⟩

/-- Settles O17: the row of stage 5 for a byte that is `rx_sum` emits what `foEmit` does. -/
theorem s5AcceptEmitsTheFrame : Obligations.S5AcceptEmitsTheFrame := by
  unfold Obligations.S5AcceptEmitsTheFrame
  refine ⟨fun p s b => ?selection, fun b s => ?effect⟩
  case selection => rw [selectRx_eq_iff (st := .chk) rfl, rowOf_chk_eq_s5Accept_iff]
  case effect =>
    refine ⟨(s.setRx (rxDrop s.rx)).setFo (foEmit s.rx), rfl, rfl, rfl, rfl, fun i hi => ?_, rfl, rfl, rfl, rfl, rfl, rfl⟩
    simp [foEmit]

/-- Settles O18: the row of stage 5 for any other byte drops the candidate. -/
theorem s5RejectDropsTheCandidate : Obligations.S5RejectDropsTheCandidate := by
  unfold Obligations.S5RejectDropsTheCandidate
  refine ⟨fun p s b => ?selection, fun b s => ?effect⟩
  case selection => rw [selectRx_eq_iff (st := .chk) rfl, rowOf_chk_eq_s5Reject_iff]
  case effect => exact ⟨rxSilent (rxDrop s.rx) s, rfl, rfl, rxSilent_frame _ s⟩

/-! ### Runs as byte sequences (41_rx_parser.md R120, R133) -/

/-- The frame shown after an edge without reset is that of `RxStep` at a presented byte, none without one. -/
theorem emittedFrame_edgeNext (p : PortIn) (s : State) (hrst : p.rst = false) :
    emittedFrame (edgeNext p s) = if p.rxValid then (rxStep s.rx p.rxByte).2 else none := by
  rw [emittedFrame, edgeNext_fo p s hrst]
  cases p.rxValid with
  | false => simp
  | true =>
    cases hs : s.rx.stage with
    | chk =>
      by_cases hb : p.rxByte = s.rx.sum
      · simp [rxStep_chk _ _ hs, hb, heldFrame, takeBytes_foEmit]
      · simp [rxStep_chk _ _ hs, hb]
    | stx | cmd | len | data | etx => simp [rxStep, hs]

/-- Settles O43: the registers and the frame after an edge; a state shows a frame exactly while `fo_valid` is 1. -/
theorem anEdgeIsOneRxStep : Obligations.AnEdgeIsOneRxStep := by
  unfold Obligations.AnEdgeIsOneRxStep
  intro p s hrst
  refine ⟨fun hvalid => ⟨?rx, ?frame⟩, fun hvalid => ⟨selectRx_of_noByte hvalid, ?rxIdle, ?frameIdle⟩, fun hnone => ?quiet⟩
  case rx => rw [edgeNext_rx p s hrst, if_pos hvalid]
  case frame => rw [emittedFrame_edgeNext p s hrst, if_pos hvalid]
  case rxIdle => exact (edgeNext_of_noByte s hrst hvalid).1
  case frameIdle => simp [emittedFrame_edgeNext p s hrst, hvalid]
  case quiet => simpa [emittedFrame] using hnone

/-- A cycle without reset adds the byte it presents, if any. -/
theorem rxBytes_cons (p : PortIn) (ps : List PortIn) (hrst : p.rst = false) :
    rxBytes (p :: ps) = if p.rxValid then p.rxByte :: rxBytes ps else rxBytes ps := by
  cases hvalid : p.rxValid <;> simp [rxBytes, hrst, hvalid]

/-- Settles O44, by induction on the cycles: each feeds its byte to `RxStep`, or changes nothing. -/
theorem framesDependOnTheBytesAlone : Obligations.FramesDependOnTheBytesAlone := by
  unfold Obligations.FramesDependOnTheBytesAlone
  intro ps
  induction ps with
  | nil => exact fun s _ => ⟨rfl, rfl⟩
  | cons p ps ih =>
    intro s hrst
    obtain ⟨hp, hps⟩ := List.forall_mem_cons.1 hrst
    obtain ⟨hframes, hrx⟩ := ih (edgeNext p s) hps
    rw [framesOf_cons, emittedFrame_edgeNext p s hp, rxBytes_cons p ps hp, hframes, runCycles, hrx, edgeNext_rx p s hp]
    cases p.rxValid with
    | false => exact ⟨rfl, rfl⟩
    | true => exact ⟨rfl, rfl⟩

/-! ### A frame after another (41_rx_parser.md R137) -/

/-- After the byte that belongs to CHK no candidate is left, whatever the byte. -/
theorem Candidate.feed_frame_none (c n x : Byte) (d : List Byte) (hd : d.length = min n.toNat MAX_DATA) :
    (Candidate.none.feed ([STX, c, n] ++ d ++ [ETX, x])).1 = .none := by
  rw [feed_append, feed_untilEtx c n d hd]
  simp [feed_cons, step]

/-- A frame with a wrong CHK, whatever follows it, is received as nothing. -/
theorem Candidate.feed_corrupted (c n x : Byte) (d rest : List Byte) (hd : d.length = min n.toNat MAX_DATA)
    (hx : x ≠ checksum ([STX, c, n] ++ d ++ [ETX])) :
    (Candidate.none.feed (([STX, c, n] ++ d ++ [ETX, x]) ++ rest)).2 = (Candidate.none.feed rest).2 := by
  have hframe := feed_frame c n ETX x d hd
  rw [if_neg fun h => hx h.2] at hframe
  rw [feed_append, hframe, feed_frame_none c n x d hd, List.nil_append]

/-- Settles O46: the first frame is received as nothing, the second as from stage 0. -/
theorem corruptedChecksumIsDroppedAndTheNextFrameFound :
    Obligations.CorruptedChecksumIsDroppedAndTheNextFrameFound := by
  unfold Obligations.CorruptedChecksumIsDroppedAndTheNextFrameFound
  intro c n c' n' x d d' r hr hd hd' hx
  have hvalid := Candidate.feed_frame c' n' ETX (checksum ([STX, c', n'] ++ d' ++ [ETX])) d' hd'
  rw [if_pos ⟨rfl, rfl⟩] at hvalid
  rw [(rxFeed_of_stx r _ hr).1]
  exact (Candidate.feed_corrupted c n x d _ hd hx).trans hvalid

end Sys2Proof.Machine

/-! The statements of 42_tx_framer.md: frame construction, the TX operations, the bytes a sink takes, and a request that
waits. -/

namespace Sys2Proof.Machine
open Config

/-! ### Frame construction (42_tx_framer.md R150, R162) -/

section
variable (c : Byte) (payload : List Byte)

/-- The data of a built frame as the parser counts it: the LEN byte announces all of it. -/
theorem length_take_payload :
    (payload.take MAX_DATA).length =
      min (BitVec.ofNat 8 (payload.take MAX_DATA).length : Byte).toNat MAX_DATA := by
  simp only [MAX_DATA, List.length_take, BitVec.toNat_ofNat]
  omega

theorem txBuild_eq :
    txBuild c payload =
      frameBody c (BitVec.ofNat 8 (payload.take MAX_DATA).length) (payload.take MAX_DATA) ++
        [checksum (frameBody c (BitVec.ofNat 8 (payload.take MAX_DATA).length) (payload.take MAX_DATA))] := rfl

/-- A built frame as the parser reads it: header, data, and the two bytes that decide. -/
theorem txBuild_eq_parts :
    txBuild c payload =
      [STX, c, BitVec.ofNat 8 (payload.take MAX_DATA).length] ++ payload.take MAX_DATA ++
        [ETX, checksum ([STX, c, BitVec.ofNat 8 (payload.take MAX_DATA).length] ++ payload.take MAX_DATA ++ [ETX])] :=
  List.append_assoc _ [ETX] _

/-- A built frame is received as its command and truncated payload, and leaves no candidate. -/
theorem Candidate.feed_txBuild :
    Candidate.none.feed (txBuild c payload) = (.none, [⟨c, payload.take MAX_DATA⟩]) := by
  have hd := length_take_payload payload
  rw [txBuild_eq_parts]
  exact Prod.ext (feed_frame_none _ _ _ _ hd) ((feed_frame _ _ _ _ _ hd).trans (if_pos ⟨rfl, rfl⟩))

end

/-- Settles O45: the run's frames are those of its bytes, and a candidate takes the bytes of a built frame whole. -/
theorem roundTrip : Obligations.RoundTrip := by
  unfold Obligations.RoundTrip
  intro c payload ps s hrst hrest hbytes
  obtain ⟨hframes, hrx⟩ := framesDependOnTheBytesAlone ps s hrst
  obtain ⟨hfed, hstage⟩ := rxFeed_of_stx s.rx (txBuild c payload) hrest
  rw [Candidate.feed_txBuild] at hfed hstage
  rw [hbytes] at hframes hrx
  refine ⟨hframes.trans hfed, ?_⟩
  rw [RxAtRest, hrx]
  exact hstage

theorem exec_txBuild (c : Byte) (p : List Byte) (s : State) :
    exec (.txBuild c p) s = .next (s.setAnswer (.frame (txBuild c p))) := rfl

theorem length_frameBody (c n : Byte) (d : List Byte) : (frameBody c n d).length = 4 + d.length := by
  simp [frameBody]
  omega

/-- Settles O30: the parts of the built frame, and the answer field alone is written. -/
theorem txBuildConstructsTheFrame : Obligations.TxBuildConstructsTheFrame := by
  unfold Obligations.TxBuildConstructsTheFrame
  intro c p s
  have hd : (p.take MAX_DATA).length = min p.length 16 := List.length_take.trans (Nat.min_comm _ _)
  have hbody := length_frameBody c (BitVec.ofNat 8 (p.take MAX_DATA).length) (p.take MAX_DATA)
  refine ⟨_, txBuild c p, exec_txBuild c p s, State.setAnswer_answer s _, ?length, ?header, ?data, ?tail,
    sameButAnswer_setAnswer s _⟩
  case length =>
    rw [txBuild_eq, List.length_append, hbody, hd, List.length_singleton]
    omega
  case header =>
    rw [← hd]
    rfl
  case data =>
    rw [← hd, txBuild_eq_parts, List.append_assoc]
    exact List.take_left
  case tail =>
    have htake : (txBuild c p).take (4 + min p.length 16) =
        frameBody c (BitVec.ofNat 8 (p.take MAX_DATA).length) (p.take MAX_DATA) := List.take_left' (by rw [hbody, hd])
    rw [htake, txBuild_eq_parts]
    exact List.drop_left' (by rw [List.length_append, hd]; rfl)

/-! ### Selection of the TX operations (30_encoding.md R91, R92) -/

section
variable {p : PortIn} {s : State}

theorem selectTx_of_free (h : s.tx.busy = false) :
    selectTx p s = if p.reqValid = true then .txAccept p.reqCmd p.reqLen (unpackBytes p.reqData) else .txIdle := by
  rw [selectTx, h]
  cases p.reqValid with
  | false => exact decodeTx_free ..
  | true => exact decodeTx_request ..

/-- While the exclusion is held the request ports are not read (42_tx_framer.md R152). -/
theorem selectTx_of_busy (h : s.tx.busy = true) :
    selectTx p s =
      if p.outReady = true then if s.tx.pos.toNat < 4 + s.tx.len.toNat then .txByte else .txLast else .txStall := by
  rw [selectTx, h]
  cases p.outReady with
  | false => exact decodeTx_stall ..
  | true => exact decodeTx_take ..

theorem selectTx_eq_txIdle : selectTx p s = .txIdle ↔ s.tx.busy = false ∧ p.reqValid = false := by
  cases hb : s.tx.busy with
  | false => cases hr : p.reqValid <;> simp [selectTx_of_free hb, hr]
  | true => rw [selectTx_of_busy hb]; split_ifs <;> simp

theorem selectTx_eq_txAccept {c n : Byte} {d : Bytes16} :
    selectTx p s = .txAccept c n d ↔
      s.tx.busy = false ∧ p.reqValid = true ∧ p.reqCmd = c ∧ p.reqLen = n ∧ unpackBytes p.reqData = d := by
  cases hb : s.tx.busy with
  | false => cases hr : p.reqValid <;> simp [selectTx_of_free hb, hr]
  | true => rw [selectTx_of_busy hb]; split_ifs <;> simp

theorem selectTx_eq_txStall : selectTx p s = .txStall ↔ s.tx.busy = true ∧ p.outReady = false := by
  cases hb : s.tx.busy with
  | false => rw [selectTx_of_free hb]; split_ifs <;> simp
  | true => cases ho : p.outReady <;> simp [selectTx_of_busy hb, ho, ite_eq_iff]

theorem selectTx_eq_txByte :
    selectTx p s = .txByte ↔ s.tx.busy = true ∧ p.outReady = true ∧ s.tx.pos.toNat < 4 + s.tx.len.toNat := by
  cases hb : s.tx.busy with
  | false => rw [selectTx_of_free hb]; split_ifs <;> simp
  | true => cases ho : p.outReady <;> simp [selectTx_of_busy hb, ho]

end

/-- The data of a request port, byte by byte (30_encoding.md R90). -/
theorem unpackBytes_eq_iff (v : BitVec 128) (d : Bytes16) :
    unpackBytes v = d ↔ ∀ (i : Nat) (h : i < 16), d[i] = v.extractLsb' (8 * i) 8 := by
  rw [Vector.ext_iff]
  exact forall₂_congr fun i hi => by rw [unpackBytes, Vector.getElem_ofFn, eq_comm]

/-! ### The TX registers after an operation (42_tx_framer.md R151 to R156) -/

/-- Writing the TX registers writes nothing else. -/
theorem sameOutsideTx_setTx (s : State) (t : TxRegs) : SameOutsideTx s (s.setTx t) := ⟨rfl, rfl, rfl, rfl, rfl, rfl⟩

section
variable {p : PortIn} {s : State}

theorem txSide_of_request (hb : s.tx.busy = false) (hr : p.reqValid = true) :
    txSide p s = txLatch p.reqCmd p.reqLen (unpackBytes p.reqData) s.tx := by
  simp [txSide, hb, hr]

theorem txSide_of_stall (hb : s.tx.busy = true) (ho : p.outReady = false) : txSide p s = txQuiet s.tx := by
  simp [txSide, hb, ho]

theorem txSide_of_byte (hb : s.tx.busy = true) (ho : p.outReady = true)
    (hp : s.tx.pos.toNat < 4 + s.tx.len.toNat) : txSide p s = txAdvance s.tx := by
  simp [txSide, hb, ho, hp]

/-- Only TX_LAST sets `tx_done` (42_tx_framer.md R157). -/
theorem txSide_done : (txSide p s).done = true ↔ selectTx p s = .txLast := by
  rw [selectTx_eq_txLast, txSide]
  split_ifs <;> simp [*]

end

/-- Settles O39: a reset edge clears `tx_done`, and at any other edge only TX_LAST sets it. -/
theorem txDonePulsesAfterTxLastOnly : Obligations.TxDonePulsesAfterTxLastOnly := by
  unfold Obligations.TxDonePulsesAfterTxLastOnly
  intro p s
  cases hrst : p.rst with
  | true =>
    obtain ⟨_, _, htx⟩ := edgeNext_rst p s hrst
    simp [htx, TxRegs.reset]
  | false => simp [edgeNext_tx p s hrst, txSide_done]

/-- Settles O20: the row without the exclusion and without a request. -/
theorem txIdleClearsOnlyTxDone : Obligations.TxIdleClearsOnlyTxDone := by
  unfold Obligations.TxIdleClearsOnlyTxDone
  exact ⟨fun _ _ => selectTx_eq_txIdle, fun s => ⟨s.setTx (txQuiet s.tx), rfl, rfl, sameOutsideTx_setTx s _⟩⟩

/-- Settles O23: the rows of the handshake; under the invariant `tx_pos` is at most `4 + tx_len`. -/
theorem txByteAndTxLastTakeTheOfferedByte : Obligations.TxByteAndTxLastTakeTheOfferedByte := by
  unfold Obligations.TxByteAndTxLastTakeTheOfferedByte
  refine ⟨fun _ _ => selectTx_eq_txByte, fun p s hinv => ?last,
    fun s => ⟨s.setTx (txAdvance s.tx), rfl, rfl, sameOutsideTx_setTx s _⟩,
    fun s => ⟨s.setTx (txRelease s.tx), rfl, rfl, sameOutsideTx_setTx s _, rfl, rfl, rfl⟩⟩
  case last =>
    have hpos : ¬ s.tx.pos.toNat < 4 + s.tx.len.toNat ↔ s.tx.pos.toNat = 4 + s.tx.len.toNat :=
      ⟨fun h => Nat.le_antisymm hinv.pos_le (Nat.le_of_not_lt h), fun h => Nat.not_lt_of_le h.ge⟩
    rw [selectTx_eq_txLast, hpos]

/-! ### What an acceptance latches (42_tx_framer.md R151) -/

/-- The LEN byte of a 5-bit length (42_tx_framer.md R154). -/
theorem lenByte_eq (l : BitVec 5) : lenByte l = BitVec.ofNat 8 l.toNat := (BitVec.ofNat_toNat 8 l).symm

/-- Settles O21: the row of a request at the free exclusion; the offered byte is the one at position 0. -/
theorem txAcceptLatchesTheRequest : Obligations.TxAcceptLatchesTheRequest := by
  unfold Obligations.TxAcceptLatchesTheRequest
  refine ⟨fun p s c n d => ?selection, fun c n d s => ?effect⟩
  case selection => rw [selectTx_eq_txAccept, unpackBytes_eq_iff]
  case effect =>
    have hlen : (clampLen n).toNat = min n.toNat 16 := clampLen_toNat n
    refine ⟨s.setTx (txLatch c n d s.tx), rfl, rfl, hlen, rfl, ?chk, rfl, rfl, rfl, sameOutsideTx_setTx s _, rfl, rfl,
      rfl, fun q => ?next⟩
    case chk =>
      rw [State.setTx_tx, txLatch_chk, lenByte_eq, takeBytes, hlen]
      rfl
    case next =>
      have hpos : (s.setTx (txLatch c n d s.tx)).tx.pos.toNat < 4 + (s.setTx (txLatch c n d s.tx)).tx.len.toNat :=
        Nat.lt_of_lt_of_le (Nat.zero_lt_succ 3) (Nat.le_add_right 4 _)
      rw [selectTx_of_busy rfl, if_pos hpos]

/-! ### The frame in flight (42_tx_framer.md R154) -/

/-- The whole frame that the TX registers hold. -/
def txFrame (t : TxRegs) : List Byte := frameBody t.cmd (lenByte t.len) (takeBytes t.len t.data) ++ [t.chk]

@[simp] theorem txFrame_txQuiet (t : TxRegs) : txFrame (txQuiet t) = txFrame t := rfl

@[simp] theorem txFrame_txAdvance (t : TxRegs) : txFrame (txAdvance t) = txFrame t := rfl

section
variable {t : TxRegs} (free : Byte)

theorem frameByte_data {i : Nat} (h : i < 16) (hi : i < t.len.toNat) : frameByte t (3 + i) free = t.data[i] := by
  have h1 : 3 + i ≠ 1 := by omega
  have h2 : 3 + i ≠ 2 := by omega
  simp [frameByte, h1, h2, hi, h]

theorem frameByte_etx : frameByte t (3 + t.len.toNat) free = ETX := by
  have h1 : 3 + t.len.toNat ≠ 1 := by omega
  have h2 : 3 + t.len.toNat ≠ 2 := by omega
  simp [frameByte, h1, h2]

theorem frameByte_chk : frameByte t (4 + t.len.toNat) free = t.chk := by
  have h1 : 4 + t.len.toNat ≠ 1 := by omega
  have h2 : 4 + t.len.toNat ≠ 2 := by omega
  have h3 : ¬ 4 + t.len.toNat < 3 + t.len.toNat := by omega
  simp [frameByte, h1, h2, h3]

variable (hlen : t.len.toNat ≤ MAX_DATA)
include hlen

theorem length_takeBytes_of_le : (takeBytes t.len t.data).length = t.len.toNat := by
  rw [length_takeBytes]
  exact Nat.min_eq_left hlen

theorem length_txFrame : (txFrame t).length = 5 + t.len.toNat := by
  rw [txFrame, List.length_append, length_frameBody, length_takeBytes_of_le hlen, List.length_singleton]
  omega

/-- The byte at a position of the frame is what `FrameByte` gives there. -/
theorem getElem?_txFrame {k : Nat} (hk : k ≤ 4 + t.len.toNat) : (txFrame t)[k]? = some (frameByte t k free) := by
  have hdata := length_takeBytes_of_le hlen
  have hparts : txFrame t = STX :: t.cmd :: lenByte t.len :: (takeBytes t.len t.data ++ [ETX, t.chk]) := by
    simp [txFrame, frameBody]
  rw [hparts]
  match k with
  | 0 | 1 | 2 => rfl
  | i + 3 =>
    simp only [List.getElem?_cons_succ]
    rw [Nat.add_comm i 3]
    rcases Nat.lt_trichotomy i t.len.toNat with hi | rfl | hi
    · have h16 : i < 16 := Nat.lt_of_lt_of_le hi hlen
      rw [frameByte_data free h16 hi, List.getElem?_append_left (by omega)]
      simp [takeBytes, hi, h16]
    · rw [frameByte_etx, List.getElem?_append_right (by omega), hdata, Nat.sub_self]
      rfl
    · obtain rfl : i = t.len.toNat + 1 := by omega
      have hpos : 3 + (t.len.toNat + 1) = 4 + t.len.toNat := by omega
      rw [hpos, frameByte_chk, List.getElem?_append_right (by omega), hdata, Nat.add_sub_cancel_left]
      rfl

/-- The bytes offered position by position are the frame. -/
theorem map_frameByte_range : (List.range (5 + t.len.toNat)).map (fun k => frameByte t k free) = txFrame t := by
  apply List.ext_getElem?
  intro k
  by_cases hk : k < 5 + t.len.toNat
  · rw [getElem?_txFrame free hlen (by omega), List.getElem?_map, List.getElem?_range hk]
    rfl
  · rw [List.getElem?_eq_none (by simpa using hk), List.getElem?_eq_none (by rw [length_txFrame hlen]; omega)]

end

/-- An accepted request's frame is the built frame of its data (42_tx_framer.md R150, R151). -/
theorem txFrame_txLatch (c n : Byte) (d : Bytes16) (t : TxRegs) :
    txFrame (txLatch c n d t) = txBuild c (d.toList.take n.toNat) := by
  have hdata : (d.toList.take n.toNat).take MAX_DATA = takeBytes (clampLen n) d := by
    rw [takeBytes, List.take_take, clampLen_toNat, Nat.min_comm]
  have hlen : lenByte (clampLen n) = BitVec.ofNat 8 (takeBytes (clampLen n) d).length := by
    have hle : (clampLen n).toNat ≤ 16 := clampLen_le n
    rw [lenByte_eq, length_takeBytes, Nat.min_eq_left hle]
  rw [txBuild_eq, hdata, ← hlen]
  rfl

/-- What is offered position by position after an acceptance is the built frame, whatever the free byte. -/
theorem map_frameByte_txLatch (c n : Byte) (d : Bytes16) (t : TxRegs) (free : Byte) :
    (List.range (5 + min n.toNat 16)).map (fun k => frameByte (txLatch c n d t) k free) =
      txBuild c (d.toList.take n.toNat) := by
  have hlen : min n.toNat 16 = (txLatch c n d t).len.toNat := (clampLen_toNat n).symm
  rw [hlen, map_frameByte_range free (clampLen_le n), txFrame_txLatch]

theorem outputs_outByte_of_busy {s : State} (h : s.tx.busy = true) : (outputs s).outByte = offeredByte s :=
  if_pos h

/-- Settles O52: `frameByte` position by position, and the frame these bytes spell. -/
theorem offeredBytesSpellTheFrame : Obligations.OfferedBytesSpellTheFrame := by
  unfold Obligations.OfferedBytesSpellTheFrame
  refine ⟨fun s => rfl, fun s hbusy hinv => ?_, map_frameByte_txLatch⟩
  rw [outputs_outByte_of_busy hbusy, offeredByte]
  refine ⟨fun h => ?_, fun h => ?_, fun h => ?_, fun i hi hlt h => ?_, fun h => ?_, fun h => ?_⟩ <;> rw [h]
  · rfl
  · rfl
  · exact lenByte_eq _
  · exact frameByte_data _ hi hlt
  · exact frameByte_etx _
  · exact frameByte_chk _

/-- Settles O25: the directive's levels, and the built frame of an empty payload. -/
theorem pingRequestsTheEmptyFrame : Obligations.PingRequestsTheEmptyFrame := by
  unfold Obligations.PingRequestsTheEmptyFrame
  refine ⟨fun s => ?_, fun d t free => ⟨map_frameByte_txLatch 0x00 0x00 d t free, rfl⟩⟩
  have hdata : portData [] = 0 := by decide
  exact ⟨present CMD_PING 0 (portData []) s, rfl, rfl, rfl, rfl, hdata, rfl, ⟨rfl, rfl, rfl⟩, rfl, rfl, rfl⟩

/-! ### Stalls (42_tx_framer.md R156) -/

/-- Through any stalls nothing but `tx_done` changes in the TX registers. -/
theorem txQuiet_runCycles_of_stalled (ps : List PortIn) (s : State) (hrst : NoReset ps)
    (hstall : ∀ p ∈ ps, p.outReady = false) (hbusy : s.tx.busy = true) :
    txQuiet (runCycles ps s).tx = txQuiet s.tx := by
  induction ps generalizing s with
  | nil => rfl
  | cons p ps ih =>
    obtain ⟨hp, hps⟩ := List.forall_mem_cons.1 hrst
    obtain ⟨ho, hos⟩ := List.forall_mem_cons.1 hstall
    have htx : (edgeNext p s).tx = txQuiet s.tx := by rw [edgeNext_tx p s hp, txSide_of_stall hbusy ho]
    have hrest := ih (edgeNext p s) hps hos (by rw [htx]; exact hbusy)
    rw [htx] at hrest
    exact hrest

/-- Settles O22: the row of a sink that is not ready; the offered byte is read from registers that stalls keep. -/
theorem txStallHoldsTheOfferedByte : Obligations.TxStallHoldsTheOfferedByte := by
  unfold Obligations.TxStallHoldsTheOfferedByte
  refine ⟨fun _ _ => selectTx_eq_txStall, fun s => ⟨s.setTx (txQuiet s.tx), rfl, rfl, sameOutsideTx_setTx s _⟩,
    fun ps s hrst hstall hbusy hinv => ?run⟩
  case run =>
    have htx := txQuiet_runCycles_of_stalled ps s hrst hstall hbusy
    have hbusy' : (runCycles ps s).tx.busy = true := (congrArg TxRegs.busy htx).trans hbusy
    refine ⟨hbusy', ?_, (congrArg TxRegs.pos htx :)⟩
    rw [outputs_outByte_of_busy hbusy', outputs_outByte_of_busy hbusy]
    calc offeredByte (runCycles ps s)
        = frameByte (txQuiet (runCycles ps s).tx) (txQuiet (runCycles ps s).tx).pos.toNat
            (freeFrameByte (runCycles ps s).edge) := rfl
      _ = frameByte s.tx s.tx.pos.toNat (freeFrameByte (runCycles ps s).edge) := by rw [htx]; rfl
      _ = offeredByte s := frameByte_free _ _ hinv.pos_le hinv.len_le _ _

/-! ### The bytes the sink takes (42_tx_framer.md R155, R161) -/

section
variable {p : PortIn} {s : State}

theorem takenByte_of_notReady (h : p.outReady = false) : takenByte p s = none := by simp [takenByte, h]

theorem takenByte_of_free (h : s.tx.busy = false) : takenByte p s = none := by simp [takenByte, txOutValid, h]

theorem takenByte_of_ready (hrst : p.rst = false) (hbusy : s.tx.busy = true) (ho : p.outReady = true) :
    takenByte p s = some (offeredByte s) := by
  simp [takenByte, txOutValid, hrst, hbusy, ho]

end

theorem readyCount_cons (p : PortIn) (ps : List PortIn) :
    readyCount (p :: ps) = readyCount ps + if p.outReady = true then 1 else 0 := List.countP_cons

/-- A sink that is never ready takes nothing. -/
theorem takenOf_of_readyCount_eq_zero (ps : List PortIn) (s : State) (h : readyCount ps = 0) : takenOf ps s = [] := by
  induction ps generalizing s with
  | nil => rfl
  | cons p ps ih =>
    rw [readyCount_cons] at h
    cases ho : p.outReady with
    | false => rw [takenOf_cons, takenByte_of_notReady ho, ih _ (by omega)]; rfl
    | true => simp [ho] at h

/-- The next position, as a number. -/
theorem TxInv.txAdvance_pos_toNat {t : TxRegs} (h : TxInv t) : (Machine.txAdvance t).pos.toNat = t.pos.toNat + 1 := by
  have hlen : t.len.toNat ≤ 16 := h.len_le
  have hpos := h.pos_le
  simp [BitVec.toNat_add]
  omega

/-- The bytes still to be taken begin with the offered one. -/
theorem drop_txFrame {s : State} (h : TxInv s.tx) :
    (txFrame s.tx).drop s.tx.pos.toNat = offeredByte s :: (txFrame s.tx).drop (s.tx.pos.toNat + 1) := by
  rw [List.drop_eq_getElem?_toList_append, getElem?_txFrame _ h.len_le h.pos_le]
  rfl

/-- From any position of a frame in flight the sink takes the bytes from there on, one for each ready cycle. -/
theorem takenOf_of_busy (ps : List PortIn) (s : State) (hinv : TxInv s.tx) (hbusy : s.tx.busy = true)
    (hrst : NoReset ps) (hready : s.tx.pos.toNat + readyCount ps ≤ 5 + s.tx.len.toNat) :
    takenOf ps s = ((txFrame s.tx).drop s.tx.pos.toNat).take (readyCount ps) := by
  induction ps generalizing s with
  | nil => rfl
  | cons p ps ih =>
    obtain ⟨hp, hps⟩ := List.forall_mem_cons.1 hrst
    have htx := edgeNext_tx p s hp
    rw [readyCount_cons] at hready
    rw [takenOf_cons, readyCount_cons]
    cases ho : p.outReady with
    | false =>
      rw [txSide_of_stall hbusy ho] at htx
      have hrest := ih (edgeNext p s) (htx ▸ hinv.txQuiet) (htx ▸ hbusy) hps (by rw [htx]; simpa [ho] using hready)
      rw [htx] at hrest
      rw [takenByte_of_notReady ho]
      exact hrest
    | true =>
      simp only [ho, if_true] at hready
      rw [takenByte_of_ready hp hbusy ho, drop_txFrame hinv, if_pos rfl, List.take_succ_cons]
      refine congrArg (offeredByte s :: ·) ?_
      by_cases hpos : s.tx.pos.toNat < 4 + s.tx.len.toNat
      · rw [txSide_of_byte hbusy ho hpos] at htx
        have hsucc := hinv.txAdvance_pos_toNat
        have hrest := ih (edgeNext p s) (htx ▸ hinv.txAdvance hpos) (htx ▸ hbusy) hps
          (by rw [htx, hsucc, txAdvance_len]; omega)
        rw [htx, hsucc] at hrest
        exact hrest
      · have hnone : readyCount ps = 0 := by omega
        rw [takenOf_of_readyCount_eq_zero ps _ hnone, hnone]
        rfl

/-- Settles O53: the acceptance puts the built frame in flight at position 0. -/
theorem sinkTakesExactlyTheBuiltFrame : Obligations.SinkTakesExactlyTheBuiltFrame := by
  unfold Obligations.SinkTakesExactlyTheBuiltFrame
  intro p ps s hrst hreq hidle hps hready
  have htx : (edgeNext p s).tx = txLatch p.reqCmd p.reqLen (unpackBytes p.reqData) s.tx := by
    rw [edgeNext_tx p s hrst, txSide_of_request hidle hreq]
  have hlen : (edgeNext p s).tx.len.toNat = min p.reqLen.toNat 16 := by rw [htx]; exact clampLen_toNat _
  have hpos : (edgeNext p s).tx.pos.toNat = 0 := by rw [htx]; rfl
  rw [takenOf_cons, takenByte_of_free hidle,
    takenOf_of_busy ps _ (htx ▸ .txLatch _ _ _ _) (htx ▸ rfl) hps (by omega), hpos, htx, txFrame_txLatch]
  rfl

/-! ### A request that waits (42_tx_framer.md R152, R153) -/

section
variable {p q : PortIn} {s : State} (hpq : SameButRequest p q)
include hpq

/-- While the exclusion is held the whole edge is the same, whatever the request ports present. -/
theorem SameButRequest.edgeNext_eq (hbusy : s.tx.busy = true) : edgeNext p s = edgeNext q s := by
  obtain ⟨hrst, hvalid, hbyte, hready⟩ := hpq
  rw [Machine.edgeNext_eq, Machine.edgeNext_eq]
  simp only [edgeResult, rxSide, txSide, hbusy, hrst, hvalid, hbyte, hready, if_true]

theorem SameButRequest.takenByte_eq : takenByte p s = takenByte q s := by
  obtain ⟨hrst, _, _, hready⟩ := hpq
  simp only [takenByte, hrst, hready]

theorem SameButRequest.lastAt_eq : lastAt p s = lastAt q s := by
  obtain ⟨hrst, _, _, hready⟩ := hpq
  simp only [lastAt, selectTx_eq_txLast, hrst, hready]

end

/-- Settles O24: the exclusion decides whether the request ports are read. -/
theorem requestWaitsForTheExclusion : Obligations.RequestWaitsForTheExclusion := by
  unfold Obligations.RequestWaitsForTheExclusion
  refine ⟨fun s => rfl, fun p q s hbusy hpq => ⟨?selection, ?operations, hpq.edgeNext_eq hbusy⟩,
    fun p s hfree hreq => ?accept, fun ps p s _ hrst hreq hbusy => ?later⟩
  case selection =>
    obtain ⟨_, _, _, hready⟩ := hpq
    rw [selectTx_of_busy hbusy, selectTx_of_busy hbusy, hready]
  case operations =>
    rw [selectTx_of_busy hbusy]
    split_ifs <;> simp
  case accept => rw [selectTx_of_free hfree, if_pos hreq]
  case later =>
    have hfree : (runCycles ps s).tx.busy = false := by simpa using hbusy ps.length (Nat.le_refl _)
    rw [edgeNext_tx p _ hrst, txSide_of_request hfree hreq]
    exact ⟨rfl, rfl, rfl⟩

/-- Settles O55, by induction on the cycles: the two edges of a cycle are the same edge. -/
theorem withdrawnRequestLeavesNoTrace : Obligations.WithdrawnRequestLeavesNoTrace := by
  unfold Obligations.WithdrawnRequestLeavesNoTrace
  intro ps qs s hin hcycles
  induction hin generalizing s with
  | nil => rfl
  | @cons p q ps qs hpq _ ih =>
    have hedge : edgeNext p s = edgeNext q s := by
      rcases hcycles 0 (Nat.succ_pos _) (Nat.succ_pos _) with heq | hbusy
      · exact congrArg (edgeNext · s) heq
      · exact hpq.edgeNext_eq hbusy
    have hrest := ih (edgeNext p s) fun n h h' => hcycles (n + 1) (Nat.succ_lt_succ h) (Nat.succ_lt_succ h')
    rw [observe, observe, ← hedge, hrest, hpq.takenByte_eq, hpq.lastAt_eq]

end Sys2Proof.Machine

/-! The statements of 60_exceptions.md: nothing faults or is refused, and the silent return to stage 0. -/

namespace Sys2Proof.Machine
open Config

/-! ### No fault and no refusal (60_exceptions.md R180) -/

/-- Every arm of the dispatch answers a next state. -/
theorem exec_answers_next (i : Instr) (s : State) : ∃ t, exec i s = .next t := by
  cases i <;> exact ⟨_, rfl⟩

theorem heldEdge_answers_next (p : PortIn) (s : State) : ∃ t, heldEdge p s = .next t := ⟨_, runEdge_eq p _⟩

/-- Every line of the stimulus program is an edge or a directive, and both answer a next state. -/
theorem step_answers_next (s : State) : ∃ t, step s = .next t := by
  rw [step, runNext]
  rcases s.program with _ | ⟨line, k⟩
  · exact heldEdge_answers_next _ _
  · cases line with
    | rst => exact heldEdge_answers_next _ _
    | rx bytes =>
      cases bytes with
      | nil => exact ⟨_, rfl⟩
      | cons b bs => exact heldEdge_answers_next _ _
    | idle n =>
      cases n with
      | zero => exact ⟨_, rfl⟩
      | succ n => exact heldEdge_answers_next _ _
    | ping => exact exec_answers_next _ _
    | txReq | withdraw | sinkHold | sinkGo => exact ⟨_, rfl⟩
    | cycle p => exact ⟨_, runEdge_eq p _⟩

/-- A run is safe if its first step answers a state from which the rest is safe. -/
theorem SafeFor.succ {n : Nat} {s t : State} (hstep : step s = .next t) (h : SafeFor n t) : SafeFor (n + 1) s := by
  simp only [SafeFor, Host.Core.run, hstep]
  exact h

/-- Settles O8: every arm answers a next state, and so does every step of a run, by induction on the steps. -/
theorem nothingFaultsOrRefuses : Obligations.NothingFaultsOrRefuses := by
  unfold Obligations.NothingFaultsOrRefuses
  refine ⟨exec_answers_next, fun n => ?run⟩
  case run =>
    induction n with
    | zero => exact fun s => ⟨s, rfl⟩
    | succ n ih =>
      intro s
      obtain ⟨t, hstep⟩ := step_answers_next s
      exact .succ hstep (ih t)

/-! ### The silent return to stage 0 (60_exceptions.md R181) -/

/-- The byte ends the candidate in progress without an emission: in stage 4 it is not ETX, in stage 5 not `rx_sum`. -/
def Drops (r : RxRegs) (b : Byte) : Prop := r.stage = .etx ∧ b ≠ ETX ∨ r.stage = .chk ∧ b ≠ r.sum

/-- At such a byte the parser returns to stage 0 and emits nothing. -/
theorem Drops.rxStep_eq {r : RxRegs} {b : Byte} (h : Drops r b) : rxStep r b = (rxDrop r, none) := by
  rcases h with ⟨hs, hb⟩ | ⟨hs, hb⟩
  · rw [rxStep_etx r b hs, if_neg hb]
  · rw [rxStep_chk r b hs, if_neg hb]

/-- No other byte returns the parser to stage 0 without an emission. -/
theorem drops_of_silent_return {r : RxRegs} {b : Byte} (hs : r.stage ≠ .stx) (hreturn : (rxStep r b).1.stage = .stx)
    (hsilent : (rxStep r b).2 = none) : Drops r b := by
  cases hstage : r.stage with
  | stx => exact absurd hstage hs
  | cmd => simp [rxStep_cmd r b hstage] at hreturn
  | len =>
    rw [rxStep_len r b hstage, rxTakeLen_stage] at hreturn
    split_ifs at hreturn
  | data =>
    rw [rxStep_data r b hstage, rxTakeData_stage] at hreturn
    split_ifs at hreturn
  | etx =>
    refine .inl ⟨hstage, fun hb => ?_⟩
    rw [rxStep_etx r b hstage, if_pos hb] at hreturn
    cases hreturn
  | chk =>
    refine .inr ⟨hstage, fun hb => ?_⟩
    rw [rxStep_chk r b hstage, if_pos hb] at hsilent
    cases hsilent

section
variable {p : PortIn} {s : State} (hrst : p.rst = false)
include hrst

/-- Without reset the reason is BadEtx exactly where S4_ABORT is selected. -/
theorem desyncAt_eq_badEtx_iff :
    desyncAt p s = some .badEtx ↔ p.rxValid = true ∧ s.rx.stage = .etx ∧ p.rxByte ≠ ETX := by
  obtain ⟨hselect, _⟩ := s4AbortDropsTheCandidate
  calc desyncAt p s = some .badEtx
      ↔ ∃ b, selectRx p s = some (.s4Abort b) := by
        rw [desyncAt, hrst, if_neg Bool.false_ne_true]
        split <;> simp_all
    _ ↔ p.rxValid = true ∧ s.rx.stage = .etx ∧ p.rxByte ≠ ETX := by
        simp [hselect, ETX]

/-- Without reset the reason is BadChk exactly where S5_REJECT is selected. -/
theorem desyncAt_eq_badChk_iff :
    desyncAt p s = some .badChk ↔ p.rxValid = true ∧ s.rx.stage = .chk ∧ p.rxByte ≠ s.rx.sum := by
  obtain ⟨hselect, _⟩ := s5RejectDropsTheCandidate
  calc desyncAt p s = some .badChk
      ↔ ∃ b, selectRx p s = some (.s5Reject b) := by
        rw [desyncAt, hrst, if_neg Bool.false_ne_true]
        split <;> simp_all
    _ ↔ p.rxValid = true ∧ s.rx.stage = .chk ∧ p.rxByte ≠ s.rx.sum := by
        simp [hselect]

/-- The two reasons together: a desynchronisation is a presented byte that drops the candidate. -/
theorem desyncAt_ne_none_iff : desyncAt p s ≠ none ↔ p.rxValid = true ∧ Drops s.rx p.rxByte := by
  have hreason : desyncAt p s ≠ none ↔ desyncAt p s = some .badEtx ∨ desyncAt p s = some .badChk := by
    rcases desyncAt p s with _ | ⟨_ | _⟩ <;> simp
  rw [hreason, desyncAt_eq_badEtx_iff hrst, desyncAt_eq_badChk_iff hrst, ← and_or_left]
  rfl

/-- A dropped candidate leaves nothing behind but stage 0. -/
theorem edgeNext_of_drops (hvalid : p.rxValid = true) (h : Drops s.rx p.rxByte) :
    (edgeNext p s).rx = rxDrop s.rx ∧ FoHeld s (edgeNext p s) := by
  have hfo : (edgeNext p s).fo = foQuiet s.fo := by
    rw [edgeNext_fo p s hrst, if_neg]
    rintro ⟨_, hs, hb⟩
    simp [Drops, hs, hb] at h
  rw [edgeNext_rx p s hrst, if_pos hvalid, h.rxStep_eq, FoHeld, hfo]
  exact ⟨rfl, rfl, rfl, rfl, rfl⟩

/-- An edge that returns the parser to stage 0 without an emission presents a byte that drops the candidate. -/
theorem drops_of_silent_edge (hs : s.rx.stage ≠ .stx) (hreturn : (edgeNext p s).rx.stage = .stx)
    (hsilent : emittedFrame (edgeNext p s) = none) : p.rxValid = true ∧ Drops s.rx p.rxByte := by
  rw [edgeNext_rx p s hrst] at hreturn
  rw [emittedFrame_edgeNext p s hrst] at hsilent
  cases hvalid : p.rxValid with
  | false => simp [hvalid, hs] at hreturn
  | true =>
    rw [hvalid, if_pos rfl] at hreturn hsilent
    exact ⟨rfl, drops_of_silent_return hs hreturn hsilent⟩

end

/-- Settles O42: the two rows that drop a candidate, what they leave, and that no other byte returns silently. -/
theorem desynchronisationIsSilentAndHasTwoCauses : Obligations.DesynchronisationIsSilentAndHasTwoCauses := by
  unfold Obligations.DesynchronisationIsSilentAndHasTwoCauses
  intro p s hrst
  refine ⟨desyncAt_eq_badEtx_iff hrst, desyncAt_eq_badChk_iff hrst, fun hdesync => ?silent, fun hs hreturn hnone => ?cause⟩
  case silent =>
    obtain ⟨hvalid, hdrops⟩ := (desyncAt_ne_none_iff hrst).1 hdesync
    exact edgeNext_of_drops hrst hvalid hdrops
  case cause => exact (desyncAt_ne_none_iff hrst).2 (drops_of_silent_edge hrst hs hreturn hnone)

end Sys2Proof.Machine

/-! The statements of 70_reset_and_hazards.md: reset, the distance of emissions, and the timing of a frame in flight. -/

namespace Sys2Proof.Machine

/-! ### A reset edge (70_reset_and_hazards.md R200) -/

section
variable {p : PortIn} (s : State) (hrst : p.rst = true)
include hrst

theorem fresh_edgeNext_of_rst : Fresh (edgeNext p s) := edgeNext_rst p s hrst

theorem emittedFrame_edgeNext_of_rst : emittedFrame (edgeNext p s) = none := by
  obtain ⟨_, hfo, _⟩ := fresh_edgeNext_of_rst s hrst
  rw [emittedFrame, hfo]
  rfl

theorem takenByte_of_rst : takenByte p s = none := by simp [takenByte, hrst]

theorem lastAt_of_rst : lastAt p s = false := by simp [lastAt, hrst]

end

theorem Fresh.sameRegisters {s t : State} (hs : Fresh s) (ht : Fresh t) : SameRegisters s t := by
  obtain ⟨hrx, hfo, htx⟩ := hs
  obtain ⟨hrx', hfo', htx'⟩ := ht
  exact ⟨hrx'.trans hrx.symm, hfo'.trans hfo.symm, htx'.trans htx.symm⟩

/-- Settles O26: whatever the state before it, a reset edge leaves the registers of the reset state. -/
theorem resetOverridesEverything : Obligations.ResetOverridesEverything := by
  unfold Obligations.ResetOverridesEverything
  refine ⟨fun s => ⟨_, rfl, ⟨rfl, rfl, rfl⟩, rfl, rfl, rfl, rfl⟩, fun p s hrst => ?edge⟩
  case edge =>
    have hfresh := fresh_edgeNext_of_rst s hrst
    exact ⟨hfresh, emittedFrame_edgeNext_of_rst s hrst, takenByte_of_rst s hrst, lastAt_of_rst s hrst,
      fun q hq => hfresh.sameRegisters (fresh_edgeNext_of_rst _ hq)⟩

/-! ### The distance of emissions (70_reset_and_hazards.md R211) -/

/-- The fewest bytes with which the parser emits a frame from a stage, the CHK byte included. -/
def bytesToEmission : Stage → Nat
  | .stx => 5
  | .cmd => 4
  | .len => 3
  | .data => 3
  | .etx => 2
  | .chk => 1

theorem bytesToEmission_le (st : Stage) : bytesToEmission st ≤ 5 := by cases st <;> decide

/-- A byte brings the parser at most one byte nearer to an emission. -/
theorem bytesToEmission_rxStep (r : RxRegs) (b : Byte) :
    bytesToEmission r.stage ≤ bytesToEmission (rxStep r b).1.stage + 1 := by
  cases hs : r.stage with
  | stx => rw [rxStep_stx r b hs]; split_ifs <;> simp [hs, bytesToEmission]
  | cmd => rw [rxStep_cmd r b hs]; simp [bytesToEmission]
  | len => rw [rxStep_len r b hs, rxTakeLen_stage]; split_ifs <;> simp [bytesToEmission]
  | data => rw [rxStep_data r b hs, rxTakeData_stage]; split_ifs <;> simp [bytesToEmission]
  | etx => rw [rxStep_etx r b hs]; split_ifs <;> simp [bytesToEmission]
  | chk => rw [rxStep_chk r b hs]; simp [bytesToEmission]

/-- An edge brings the parser at most one byte nearer to an emission, reset edges included. -/
theorem bytesToEmission_edgeNext (p : PortIn) (s : State) :
    bytesToEmission s.rx.stage ≤ bytesToEmission (edgeNext p s).rx.stage + 1 := by
  cases hrst : p.rst with
  | true =>
    obtain ⟨hrx, _, _⟩ := fresh_edgeNext_of_rst s hrst
    rw [hrx]
    exact Nat.le_succ_of_le (bytesToEmission_le _)
  | false =>
    rw [edgeNext_rx p s hrst]
    split_ifs
    · exact bytesToEmission_rxStep _ _
    · exact Nat.le_succ _

/-- Only the CHK byte emits, and it leaves the parser in stage 0 (41_rx_parser.md R129). -/
theorem stage_of_rxStep_emits {r : RxRegs} {b : Byte} (h : (rxStep r b).2 ≠ none) :
    r.stage = .chk ∧ (rxStep r b).1.stage = .stx := by
  cases hs : r.stage with
  | chk => exact ⟨rfl, by rw [rxStep_chk r b hs]; rfl⟩
  | stx | cmd | len | data | etx => simp [rxStep, hs] at h

theorem stage_of_edge_emits {p : PortIn} {s : State} (h : emittedFrame (edgeNext p s) ≠ none) :
    s.rx.stage = .chk ∧ (edgeNext p s).rx.stage = .stx := by
  cases hrst : p.rst with
  | true => exact absurd (emittedFrame_edgeNext_of_rst s hrst) h
  | false =>
    rw [emittedFrame_edgeNext p s hrst] at h
    rw [edgeNext_rx p s hrst]
    cases hvalid : p.rxValid with
    | true => exact stage_of_rxStep_emits (by simpa [hvalid] using h)
    | false => simp [hvalid] at h

/-- A run with fewer edges than an emission needs bytes emits nothing. -/
theorem framesOf_of_length_lt (ps : List PortIn) (s : State) (h : ps.length < bytesToEmission s.rx.stage) :
    framesOf ps s = [] := by
  induction ps generalizing s with
  | nil => rfl
  | cons p ps ih =>
    have hnear := bytesToEmission_edgeNext p s
    rw [List.length_cons] at h
    have hsilent : emittedFrame (edgeNext p s) = none := by
      by_contra hemits
      obtain ⟨hchk, _⟩ := stage_of_edge_emits hemits
      rw [hchk, bytesToEmission] at h
      omega
    rw [framesOf_cons, hsilent, ih (edgeNext p s) (by omega)]
    rfl

/-- Settles O50: an emission leaves the parser five bytes from the next. -/
theorem emissionsAreFiveEdgesApart : Obligations.EmissionsAreFiveEdgesApart := by
  unfold Obligations.EmissionsAreFiveEdgesApart
  intro p ps s hemits hlen
  obtain ⟨_, hstx⟩ := stage_of_edge_emits hemits
  apply framesOf_of_length_lt
  rw [hstx]
  exact Nat.lt_succ_of_le hlen

/-! ### A frame in flight, by the bytes still to be taken (42_tx_framer.md R155, R156) -/

/-- A frame is in flight, and the sink has still to take `k` bytes of it. -/
structure InFlight (t : TxRegs) (k : Nat) : Prop where
  inv : TxInv t
  busy : t.busy = true
  pos_add : t.pos.toNat + k = 5 + t.len.toNat

theorem lastAt_iff {p : PortIn} {s : State} :
    lastAt p s = true ↔
      p.rst = false ∧ s.tx.busy = true ∧ p.outReady = true ∧ ¬ s.tx.pos.toNat < 4 + s.tx.len.toNat := by
  simp [lastAt, selectTx_eq_txLast]

/-- At least the CHK byte is still to be taken. -/
theorem InFlight.of_inv {t : TxRegs} (hinv : TxInv t) (hbusy : t.busy = true) : ∃ k, InFlight t (k + 1) := by
  have hpos := hinv.pos_le
  exact ⟨4 + t.len.toNat - t.pos.toNat, hinv, hbusy, by omega⟩

/-- An acceptance puts the whole frame in flight. -/
theorem InFlight.txLatch (cmd n : Byte) (d : Bytes16) (t : TxRegs) :
    InFlight (txLatch cmd n d t) (5 + min n.toNat 16) :=
  ⟨.txLatch cmd n d t, rfl, (Nat.zero_add _).trans (congrArg (5 + ·) (clampLen_toNat n).symm)⟩

section
variable {p : PortIn} {s : State} {k : Nat} (hrst : p.rst = false)
include hrst

theorem InFlight.stall (h : InFlight s.tx k) (ho : p.outReady = false) :
    InFlight (edgeNext p s).tx k ∧ lastAt p s = false := by
  rw [edgeNext_tx p s hrst, txSide_of_stall h.busy ho]
  exact ⟨⟨h.inv.txQuiet, h.busy, h.pos_add⟩, by simp [← Bool.not_eq_true, lastAt_iff, ho]⟩

theorem InFlight.byte (h : InFlight s.tx (k + 2)) (ho : p.outReady = true) :
    InFlight (edgeNext p s).tx (k + 1) ∧ lastAt p s = false := by
  have hadd := h.pos_add
  have hpos : s.tx.pos.toNat < 4 + s.tx.len.toNat := by omega
  have hsucc := h.inv.txAdvance_pos_toNat
  rw [edgeNext_tx p s hrst, txSide_of_byte h.busy ho hpos]
  exact ⟨⟨h.inv.txAdvance hpos, h.busy, by rw [hsucc, txAdvance_len]; omega⟩,
    by simp [← Bool.not_eq_true, lastAt_iff, hpos]⟩

theorem InFlight.last (h : InFlight s.tx 1) (ho : p.outReady = true) : lastAt p s = true := by
  have hadd := h.pos_add
  exact lastAt_iff.2 ⟨hrst, h.busy, ho, by omega⟩

end

/-! ### The edge of TX_LAST (42_tx_framer.md R157; 70_reset_and_hazards.md R212) -/

/-- TX_LAST shows `tx_done` and frees the exclusion. -/
theorem released_of_lastAt {p : PortIn} {s : State} (h : lastAt p s = true) :
    (edgeNext p s).tx.done = true ∧ TxIdle (edgeNext p s) := by
  obtain ⟨hrst, hbusy, htake⟩ := lastAt_iff.1 h
  have hsel := (selectTx_eq_txLast p s).2 ⟨hbusy, htake⟩
  rw [TxIdle, edgeNext_tx p s hrst]
  exact ⟨txSide_done.2 hsel, (txSide_busy_of_taken p s hbusy).2 hsel⟩

theorem lasts_cons (p : PortIn) (ps : List PortIn) (s : State) :
    (observe (p :: ps) s).lasts = (if lastAt p s then [s.edge] else []) ++ (observe ps (edgeNext p s)).lasts := rfl

theorem runCycles_concat (ps : List PortIn) (q : PortIn) (s : State) :
    runCycles (ps ++ [q]) s = edgeNext q (runCycles ps s) := by
  induction ps generalizing s with
  | nil => rfl
  | cons p ps ih => exact ih (edgeNext p s)

theorem readyCount_concat (ps : List PortIn) {q : PortIn} (hq : q.outReady = true) :
    readyCount (ps ++ [q]) = readyCount ps + 1 := by
  simp [readyCount, hq]

/-- If the cycle `q` takes the last byte, then it is the one TX_LAST of the run. -/
theorem InFlight.lasts_concat (ps : List PortIn) (s : State) {q : PortIn} (h : InFlight s.tx (readyCount ps + 1))
    (hps : NoReset ps) (hrst : q.rst = false) (hq : q.outReady = true) :
    (observe (ps ++ [q]) s).lasts = [s.edge + ps.length] ∧ lastAt q (runCycles ps s) = true := by
  induction ps generalizing s with
  | nil =>
    have hlast := h.last hrst hq
    exact ⟨by rw [List.nil_append, lasts_cons, hlast]; rfl, hlast⟩
  | cons p ps ih =>
    obtain ⟨hp, hps⟩ := List.forall_mem_cons.1 hps
    have hedge : InFlight (edgeNext p s).tx (readyCount ps + 1) ∧ lastAt p s = false := by
      rw [readyCount_cons] at h
      cases ho : p.outReady with
      | false => exact InFlight.stall hp (by simpa [ho] using h) ho
      | true => exact InFlight.byte hp (by simpa [ho] using h) ho
    obtain ⟨hflight, hnotLast⟩ := hedge
    obtain ⟨hlasts, hlast⟩ := ih (edgeNext p s) hflight hps
    refine ⟨?_, hlast⟩
    rw [List.cons_append, lasts_cons, hnotLast, hlasts, edgeNext_edge, List.length_cons, Nat.add_right_comm]
    rfl

/-- Settles O54: the acceptance puts `5 + L` bytes in flight, and every cycle after it takes a byte or stalls. -/
theorem txLastComesAfterFivePlusLPlusStalls : Obligations.TxLastComesAfterFivePlusLPlusStalls := by
  unfold Obligations.TxLastComesAfterFivePlusLPlusStalls
  intro p q ps s hrst hreq hidle hnoReset hq hready
  rw [readyCount_concat ps hq] at hready
  obtain ⟨hps, hqs⟩ := List.forall_mem_append.1 hnoReset
  have haccept : lastAt p s = false := by
    rw [← Bool.not_eq_true, lastAt_iff, hidle]
    simp
  have hflight : InFlight (edgeNext p s).tx (readyCount ps + 1) := by
    rw [edgeNext_tx p s hrst, txSide_of_request hidle hreq, hready]
    exact .txLatch _ _ _ _
  obtain ⟨hlasts, hlast⟩ := hflight.lasts_concat ps _ hps (hqs q (List.mem_singleton_self q)) hq
  refine ⟨?lasts, ?stalls, ?released⟩
  case lasts =>
    rw [lasts_cons, haccept, hlasts, edgeNext_edge, Nat.add_right_comm]
    rfl
  case stalls =>
    have hcycles : ps.length = readyCount ps + ps.countP fun c => !c.outReady := by
      simpa [readyCount] using List.length_eq_countP_add_countP (fun c : PortIn => c.outReady) (l := ps)
    omega
  case released =>
    rw [runCycles, runCycles_concat]
    exact released_of_lastAt hlast

/-! ### A fair sink (70_reset_and_hazards.md R210) -/

section
variable {inp : Nat → PortIn} {s : State} (hfair : SinkFair inp) (hrst : ∀ n, (inp n).rst = false)
include hfair hrst

/-- After finitely many stalls, which take no byte, the sink is ready. -/
theorem InFlight.exists_ready {n k : Nat} (h : InFlight (stateAt inp s n).tx k) :
    ∃ m, (inp m).outReady = true ∧ InFlight (stateAt inp s m).tx k := by
  obtain ⟨d, hready⟩ : ∃ d, (inp (n + d)).outReady = true := by
    obtain ⟨m, hle, hready⟩ := hfair n
    exact ⟨m - n, by rwa [Nat.add_sub_cancel' hle]⟩
  induction d generalizing n with
  | zero => exact ⟨n, hready, h⟩
  | succ d ih =>
    cases ho : (inp n).outReady with
    | true => exact ⟨n, ho, h⟩
    | false => exact ih (n := n + 1) (h.stall (hrst n) ho).1 (by rwa [Nat.add_right_comm])

/-- The sink takes one byte after another, down to the last. -/
theorem InFlight.exists_lastAt {n k : Nat} (h : InFlight (stateAt inp s n).tx (k + 1)) :
    ∃ m, lastAt (inp m) (stateAt inp s m) = true := by
  induction k generalizing n with
  | zero =>
    obtain ⟨m, hready, hflight⟩ := h.exists_ready hfair hrst
    exact ⟨m, hflight.last (hrst m) hready⟩
  | succ k ih =>
    obtain ⟨m, hready, hflight⟩ := h.exists_ready hfair hrst
    exact ih (n := m + 1) (hflight.byte (hrst m) hready).1

end

/-- Settles O56, by induction on the bytes still to be taken. -/
theorem frameInFlightFinishesUnderAFairSink : Obligations.FrameInFlightFinishesUnderAFairSink := by
  unfold Obligations.FrameInFlightFinishesUnderAFairSink
  intro inp s hfair hrst hinv hbusy
  obtain ⟨k, hflight⟩ := InFlight.of_inv hinv hbusy
  exact InFlight.exists_lastAt (n := 0) hfair hrst hflight

end Sys2Proof.Machine
